-- ==== Sys2Proof/Word.lean ====
section
/-! DEFINITION. Word.lean: the word types of the block and the names its commands use for register
files, registers and search directions (10_state.md, 30_encoding.md). -/

namespace Sys2Proof

/-- One byte of a port word (20_memory.md R70). -/
abbrev Byte := BitVec 8

/-- A command word (30_encoding.md R90). -/
abbrev CommandWord := BitVec 32

/-- The 64-bit word one port access carries (20_memory.md R62). -/
abbrev PortWord := BitVec 64

/-- A register number of a 3-bit register field (30_encoding.md R92). -/
abbrev Reg := Fin 8

/-- A register of the tick file `t` (10_state.md R21). -/
abbrev TReg := Reg

/-- A register of the 128-bit file `d` (10_state.md R23). -/
abbrev DReg := Reg

/-- A register of the 256-bit file `q` (10_state.md R23). -/
abbrev QReg := Reg

/-- A register of the 512-bit file `o` (10_state.md R23). -/
abbrev OReg := Reg

/-- The three wide register files, one per width of the wide integers (10_state.md R23). -/
inductive WideFile where
  /-- 128-bit registers, 2 limbs. -/
  | d
  /-- 256-bit registers, 4 limbs. -/
  | q
  /-- 512-bit registers, 8 limbs. -/
  | o
deriving DecidableEq, Repr

/-- The width `W` of a file's registers (10_state.md R23, 30_encoding.md R92). -/
def WideFile.bits : WideFile → Nat
  | .d => 128
  | .q => 256
  | .o => 512

/-- The number of 64-bit limbs of a file's registers (00_scope.md R9, 10_state.md R23). -/
def WideFile.limbs : WideFile → Nat
  | .d => 2
  | .q => 4
  | .o => 8

/-- The direction of a bitmap search, `fn[0]` of `BMNEXT` (43_bitmap.md R225). -/
inductive Direction where
  /-- `dir = 0`: toward decreasing price. -/
  | down
  /-- `dir = 1`: toward increasing price. -/
  | up
deriving DecidableEq, Repr

end Sys2Proof
end

