-- ==== Sys2Proof/Config.lean ====
section
/-! DEFINITION. Config.lean: what an implementation of the block fixes: the five open parameters of
00_scope.md R7. Their reference values stand in Machine/Parameters.lean, their constraints in
Safety.lean. -/

namespace Sys2Proof

/-- The configuration of one block: "a parameter of the step relation", not state (10_state.md R20,
00_scope.md R7). It is held beside the state so that a claim can be made for every configuration
(log 2). There is no free value: 70_reset_and_hazards.md R310. -/
structure Config where
  /-- `KTAB[0..18]`, the Q64.64 calibration constants (42_converter.md R181); each below `2^64`. -/
  ktab : Vector (BitVec 64) 19
  /-- `ARRAY_SIZE`, ticks per tick array in units of the tick spacing. -/
  arraySize : Nat
  /-- `PRIM_WORDS`, 64-bit words of the primary bitmap. -/
  primWords : Nat
  /-- `EXT_BLOCKS`, blocks per side of the extension. -/
  extBlocks : Nat
  /-- `EXT_BLOCK_WORDS`, 64-bit words per extension block. -/
  extBlockWords : Nat
deriving DecidableEq, Repr

end Sys2Proof
end

