-- ==== Sys2Proof/Machine/Parameters.lean ====
section
/-! DEFINITION. Parameters.lean: the constants the source fixes (00_scope.md R6), the reference values
of the open parameters (R7; PRESUMED, log 2), and what R7 derives from the parameters. -/

namespace Sys2Proof

/-- `MIN_TICK` (00_scope.md R6). -/
def minTick : Int := -443636

/-- `MAX_TICK` (00_scope.md R6). -/
def maxTick : Int := 443636

/-- `MIN_SQRT_PRICE_X64` (00_scope.md R6). -/
def minSqrtPrice : Nat := 4295048016

/-- `MAX_SQRT_PRICE_X64`, the exclusive upper bound (00_scope.md R6). -/
def maxSqrtPrice : Nat := 79226673521066979257578248091

/-- `BIT_PRECISION` (00_scope.md R6). -/
def bitPrecision : Nat := 16

/-- `C_LOW` (00_scope.md R6; subtracted, 42_converter.md R188). -/
def cLow : Int := 184467440737095516

/-- `C_HIGH` (00_scope.md R6; added, 42_converter.md R188). -/
def cHigh : Int := 15793534762490258745

/-- `LOG_MULT` (00_scope.md R6). -/
def logMult : Int := 59543866431248

/-- `Q64_ONE`, the scale factor of Q64.64 (00_scope.md R6, 42_converter.md R180). -/
def q64One : Nat := 2 ^ 64

/-- The reference `KTAB` of 42_converter.md R181 (PRESUMED: from general knowledge, log 2). -/
def referenceKtab : Vector (BitVec 64) 19 :=
  #v[0xfffcb933bd6fb800, 0xfff97272373d4000, 0xfff2e50f5f657000, 0xffe5caca7e10f000,
    0xffcb9843d60f7000, 0xff973b41fa98e800, 0xff2ea16466c9b000, 0xfe5dee046a9a3800,
    0xfcbe86c7900bb000, 0xf987a7253ac65800, 0xf3392b0822bb6000, 0xe7159475a2caf000,
    0xd097f3bdfd2f2000, 0xa9f746462d9f8000, 0x70d869a156f31c00, 0x31be135f97ed3200,
    0x09aa508b5b85a500, 0x005d6af8dedc582c, 0x00002216e584f5fa]

/-- The reference configuration of 00_scope.md R7 (PRESUMED, log 2). -/
def Config.reference : Config where
  ktab := referenceKtab
  arraySize := 60
  primWords := 16
  extBlocks := 14
  extBlockWords := 8

/-- `PRIM_BITS = 64 * PRIM_WORDS` (00_scope.md R7). -/
def Config.primBits (c : Config) : Nat := 64 * c.primWords

/-- `HALF = PRIM_BITS / 2` (00_scope.md R7). -/
def Config.half (c : Config) : Nat := c.primBits / 2

/-- `EXT_BLOCK_BITS = 64 * EXT_BLOCK_WORDS` (00_scope.md R7). -/
def Config.extBlockBits (c : Config) : Nat := 64 * c.extBlockWords

/-- `SIDE_BITS = EXT_BLOCKS * EXT_BLOCK_BITS` (00_scope.md R7). -/
def Config.sideBits (c : Config) : Nat := c.extBlocks * c.extBlockBits

/-- `TOTAL = PRIM_BITS + 2 * SIDE_BITS` (43_bitmap.md R219). -/
def Config.totalBits (c : Config) : Nat := c.primBits + 2 * c.sideBits

end Sys2Proof
end

