-- ==== Sys2Proof/Machine/State.lean ====
section
/-! DEFINITION. State.lean: the architectural state (10_state.md R20), the bitmap memory's canonical
form, the reasons a step can stop, and the state after reset (R38, 70_reset_and_hazards.md R300). -/

namespace Sys2Proof.Machine

/-- The bitmap memories as (port byte offset, byte) cells (20_memory.md R63, R69, R70; log 9). -/
abbrev Memory := List Host.Cell

/-- What an unlisted address reads as: every bitmap word is zero after reset (10_state.md R38). -/
def unlistedByte : Byte := 0

/-- The canonical form: addresses strictly rising, no entry equal to what an unlisted address reads
as. Equal memories are then equal lists (log 9). -/
abbrev Memory.wf (m : Memory) : Prop :=
  m.Pairwise (fun x y => x.1 < y.1) ∧ ∀ x ∈ m, x.2 ≠ unlistedByte

/-- `FLAGS` (10_state.md R27): `F` found, `C` carry or borrow, `Z` equal, `L` less. -/
structure Flags where
  f : Bool
  c : Bool
  z : Bool
  l : Bool
deriving DecidableEq, Repr

/-- One thing the host does (20_memory.md R60): an access of `bytes` bytes at a port byte offset
(R62), or the block's reset (70_reset_and_hazards.md R300). -/
inductive HostEvent where
  /-- `MemRead(addr, bytes)`. -/
  | read (addr bytes : Nat)
  /-- `MemWrite(addr, bytes, v)`. -/
  | write (addr bytes : Nat) (v : PortWord)
  /-- The reset input. -/
  | reset
deriving DecidableEq, Repr

/-- The state of the block (10_state.md R20), then three fields of the model's own (log 1, 2, 3). -/
structure State where
  /-- `t[0..7]`, 32-bit two's complement (R21). -/
  t : Vector (BitVec 32) 8
  /-- `d[0..7]` (R23). -/
  d : Vector (BitVec 128) 8
  /-- `q[0..7]` (R23). -/
  q : Vector (BitVec 256) 8
  /-- `o[0..7]` (R23). -/
  o : Vector (BitVec 512) 8
  /-- `PC`, commands disposed of since reset (R25, R26, R31). -/
  pc : BitVec 64
  /-- `FLAGS` (R27, R28). -/
  flags : Flags
  /-- `CAUSE`; nonzero is the halted condition (R29). -/
  cause : BitVec 4
  /-- `ECMD`, the word of the most recent fault (R30). -/
  ecmd : BitVec 32
  /-- `TSPACE`, the tick spacing (R32, R33). -/
  tspace : BitVec 16
  /-- `BADDR`, the result of the last `BMADDR` (R34). -/
  baddr : BitVec 26
  /-- `PRIM`, `EXTP`, `EXTN` (R36). -/
  mem : Memory
  /-- The configuration: the model's own field, changed by no step (log 2). -/
  cfg : Config
  /-- The host's accesses still to come, oldest first: the model's own field (log 1). -/
  pending : List HostEvent
  /-- What the port returned for the latest accepted access, if it was a read: the model's own
  field (log 3). -/
  answer : Option PortWord
deriving DecidableEq, Repr

/-- The states from which the block takes no step. -/
inductive Fault where
  /-- The next access writes a command word to `CMD` while `CAUSE ≠ 0`: the port holds it off and no
  command step exists (20_memory.md R64, 60_exceptions.md R271; log 5). Raised by `step`. Safe. -/
  | heldOff
  /-- The host has no access left: the run has ended (44_system.md R254; log 4). Raised by `step`.
  Safe. -/
  | awaitingHost
deriving DecidableEq, Repr

/-- The steps the model does not give. -/
inductive Refusal where
  /-- The command has no meaning yet. Raised by `exec`, by no arm at present. Safe. -/
  | notModelled (mnemonic : String)
  /-- The port rejects the access: misaligned, of another width, unmapped, or a `CMD` write with a
  nonzero upper half (20_memory.md R62, R64: "refuse it"; log 6). Raised by `step`. Safe. -/
  | portRejected
deriving DecidableEq, Repr

/-- The block right after reset, under a configuration and with the host accesses that follow it
(70_reset_and_hazards.md R300: every register and bitmap word, whatever they held before). -/
def State.resetWith (cfg : Config) (pending : List HostEvent) : State where
  t := Vector.replicate 8 0
  d := Vector.replicate 8 0
  q := Vector.replicate 8 0
  o := Vector.replicate 8 0
  pc := 0
  flags := ⟨false, false, false, false⟩
  cause := 0
  ecmd := 0
  tspace := 1
  baddr := 0
  mem := []
  cfg := cfg
  pending := pending
  answer := none

/-- The machine right after reset (10_state.md R38), at the reference configuration (log 2), the host
having presented nothing (log 1). -/
def State.reset : State := State.resetWith Config.reference []

end Sys2Proof.Machine
end

