-- ==== Sys2Proof/Machine/Flags.lean ====
section
/-! DEFINITION. Flags.lean: every flag computation of the block and the writes of single flags
(10_state.md R27). A command writes only the flags R27 gives it. -/

namespace Sys2Proof.Machine

/-- `C` after an addition of width `w`: the exact sum does not fit (40_wide_arith.md R122). -/
def carryOf (w sum : Nat) : Bool := decide (2 ^ w ≤ sum)

/-- `C` after a subtraction: a borrow occurred (40_wide_arith.md R123). -/
def borrowOf (a b : Nat) : Bool := decide (a < b)

/-- `Z` of a compare (40_wide_arith.md R128). -/
def equalOf (a b : Nat) : Bool := decide (a = b)

/-- `L` of a compare, unsigned (40_wide_arith.md R128). -/
def lessOf (a b : Nat) : Bool := decide (a < b)

/-- `FLAGS.F <- b` (00_scope.md R11). -/
def State.setF (s : State) (b : Bool) : State := { s with flags := { s.flags with f := b } }

/-- `FLAGS.C <- b` (00_scope.md R11). -/
def State.setC (s : State) (b : Bool) : State := { s with flags := { s.flags with c := b } }

/-- `FLAGS.Z <- z` and `FLAGS.L <- l` (40_wide_arith.md R128). -/
def State.setZL (s : State) (z l : Bool) : State :=
  { s with flags := { s.flags with z := z, l := l } }

/-- `FLAGS` as its 4 bits: bit 0 `F`, 1 `C`, 2 `Z`, 3 `L` (10_state.md R27). -/
def Flags.toBits (x : Flags) : BitVec 4 :=
  BitVec.ofBool x.l ++ (BitVec.ofBool x.z ++ (BitVec.ofBool x.c ++ BitVec.ofBool x.f))

end Sys2Proof.Machine
end

