-- ==== Sys2Proof/Syntax.lean ====
section
/-! DEFINITION. Syntax.lean: the command set CLMM-C1, one constructor per row of the opcode table
(30_encoding.md R96). Operands stand in the order of the assembler syntax: destination first
(R101). Which file a register field names is fixed by the command (R92). -/

namespace Sys2Proof

/-- A command (30_encoding.md R96). Immediates are the numbers of R93: `imm16` and `shamt` unsigned,
`imm20` signed. WellFormed.lean bounds them by their fields. -/
inductive Instr where
  /-- `WLI.128`: wide load immediate (R121). -/
  | wli128 (rd : DReg) (imm : Nat)
  /-- `WLI.256`: wide load immediate (R121). -/
  | wli256 (rd : QReg) (imm : Nat)
  /-- `WLI.512`: wide load immediate (R121). -/
  | wli512 (rd : OReg) (imm : Nat)
  /-- `ADD.128`: addition (R122). -/
  | add128 (rd : DReg) (ra : DReg) (rb : DReg)
  /-- `ADD.256`: addition (R122). -/
  | add256 (rd : QReg) (ra : QReg) (rb : QReg)
  /-- `ADD.512`: addition (R122). -/
  | add512 (rd : OReg) (ra : OReg) (rb : OReg)
  /-- `SUB.128`: subtraction (R123). -/
  | sub128 (rd : DReg) (ra : DReg) (rb : DReg)
  /-- `SUB.256`: subtraction (R123). -/
  | sub256 (rd : QReg) (ra : QReg) (rb : QReg)
  /-- `SUB.512`: subtraction (R123). -/
  | sub512 (rd : OReg) (ra : OReg) (rb : OReg)
  /-- `MULW.128`: widening multiply (R124). -/
  | mulw128 (rd : QReg) (ra : DReg) (rb : DReg)
  /-- `MULW.256`: widening multiply (R124). -/
  | mulw256 (rd : OReg) (ra : QReg) (rb : QReg)
  /-- `DIV.128`: same-width division (R125). -/
  | div128 (rd : DReg) (ra : DReg) (rb : DReg)
  /-- `DIV.256`: same-width division (R125). -/
  | div256 (rd : QReg) (ra : QReg) (rb : QReg)
  /-- `DIV.512`: same-width division (R125). -/
  | div512 (rd : OReg) (ra : OReg) (rb : OReg)
  /-- `SHL.128`: logical shift left (R126). -/
  | shl128 (rd : DReg) (ra : DReg) (shamt : Nat)
  /-- `SHL.256`: logical shift left (R126). -/
  | shl256 (rd : QReg) (ra : QReg) (shamt : Nat)
  /-- `SHL.512`: logical shift left (R126). -/
  | shl512 (rd : OReg) (ra : OReg) (shamt : Nat)
  /-- `SHR.128`: logical shift right (R127). -/
  | shr128 (rd : DReg) (ra : DReg) (shamt : Nat)
  /-- `SHR.256`: logical shift right (R127). -/
  | shr256 (rd : QReg) (ra : QReg) (shamt : Nat)
  /-- `SHR.512`: logical shift right (R127). -/
  | shr512 (rd : OReg) (ra : OReg) (shamt : Nat)
  /-- `CMP.128`: unsigned compare (R128). -/
  | cmp128 (ra : DReg) (rb : DReg)
  /-- `CMP.256`: unsigned compare (R128). -/
  | cmp256 (ra : QReg) (rb : QReg)
  /-- `CMP.512`: unsigned compare (R128). -/
  | cmp512 (ra : OReg) (rb : OReg)
  /-- `UPC.dq`: upcast (R129). -/
  | upcDq (rd : QReg) (ra : DReg)
  /-- `UPC.qo`: upcast (R129). -/
  | upcQo (rd : OReg) (ra : QReg)
  /-- `UPC.do`: upcast (R129). -/
  | upcDo (rd : OReg) (ra : DReg)
  /-- `DNC.qd`: downcast by truncation (R130). -/
  | dncQd (rd : DReg) (ra : QReg)
  /-- `DNC.oq`: downcast by truncation (R130). -/
  | dncOq (rd : QReg) (ra : OReg)
  /-- `DNC.od`: downcast by truncation (R130). -/
  | dncOd (rd : DReg) (ra : OReg)
  /-- `SNR.qd`: `toSaturatedNarrow` (R131). -/
  | snrQd (rd : DReg) (ra : QReg)
  /-- `SNR.oq`: `toSaturatedNarrow` (R131). -/
  | snrOq (rd : QReg) (ra : OReg)
  /-- `SNR.od`: `toSaturatedNarrow` (R131). -/
  | snrOd (rd : DReg) (ra : OReg)
  /-- `MDF.128`: `mulDivFloor` (R162). -/
  | mdf128 (rd : DReg) (rv : DReg) (rn : DReg) (rm : DReg)
  /-- `MDF.256`: `mulDivFloor` (R162). -/
  | mdf256 (rd : QReg) (rv : QReg) (rn : QReg) (rm : QReg)
  /-- `MDC.128`: `mulDivCeil` (R163). -/
  | mdc128 (rd : DReg) (rv : DReg) (rn : DReg) (rm : DReg)
  /-- `MDC.256`: `mulDivCeil` (R163). -/
  | mdc256 (rd : QReg) (rv : QReg) (rn : QReg) (rm : QReg)
  /-- `DIVN.128`: widening divide with narrowing (R161). -/
  | divn128 (rd : DReg) (ra : QReg) (rb : DReg)
  /-- `DIVN.256`: widening divide with narrowing (R161). -/
  | divn256 (rd : QReg) (ra : OReg) (rb : QReg)
  /-- `T2SP`: `tickToSqrtPrice` (R183). -/
  | t2sp (rd : DReg) (ra : TReg)
  /-- `SP2T`: `sqrtPriceToTick` (R185). -/
  | sp2t (rd : TReg) (ra : DReg)
  /-- `TLI`: tick load immediate (R211). -/
  | tli (rd : TReg) (imm : Int)
  /-- `TAS`: tick-array start (R220). -/
  | tas (rd : TReg) (ra : TReg)
  /-- `BMSET`: `setBit` (R222). -/
  | bmset (ra : TReg)
  /-- `BMCLR`: `clearBit` (R223). -/
  | bmclr (ra : TReg)
  /-- `BMTST`: `isSet` (R224). -/
  | bmtst (ra : TReg)
  /-- `BMNEXT`: `nextInitializedStartIndex` (R225). -/
  | bmnext (rd : TReg) (ra : TReg) (dir : Direction) (incl : Bool)
  /-- `BMADDR`: address of a start index (R226). -/
  | bmaddr (ra : TReg)
  /-- `NOP`: no operation (R250). -/
  | nop
deriving DecidableEq, Repr

end Sys2Proof
end

