-- ==== Sys2Proof/WellFormed.lean ====
section
/-! DEFINITION. WellFormed.lean: which commands have an encoding: each immediate fits its field
(30_encoding.md R93). Register numbers fit by their type (R92). -/

namespace Sys2Proof

/-- `imm16`, an unsigned integer 0 to 65535 (30_encoding.md R93). -/
def imm16Fits (imm : Nat) : Bool := decide (imm < 65536)

/-- `shamt`, an unsigned distance 0 to 1023 (30_encoding.md R93). -/
def shamtFits (shamt : Nat) : Bool := decide (shamt < 1024)

/-- `imm20`, a signed integer -524288 to 524287 (30_encoding.md R93). -/
def imm20Fits (imm : Int) : Bool := decide (-524288 ≤ imm ∧ imm < 524288)

/-- The command has an encoding (30_encoding.md R92, R93). -/
def Instr.wellFormed : Instr → Bool
  | .wli128 _ imm => imm16Fits imm
  | .wli256 _ imm => imm16Fits imm
  | .wli512 _ imm => imm16Fits imm
  | .add128 _ _ _ => true
  | .add256 _ _ _ => true
  | .add512 _ _ _ => true
  | .sub128 _ _ _ => true
  | .sub256 _ _ _ => true
  | .sub512 _ _ _ => true
  | .mulw128 _ _ _ => true
  | .mulw256 _ _ _ => true
  | .div128 _ _ _ => true
  | .div256 _ _ _ => true
  | .div512 _ _ _ => true
  | .shl128 _ _ shamt => shamtFits shamt
  | .shl256 _ _ shamt => shamtFits shamt
  | .shl512 _ _ shamt => shamtFits shamt
  | .shr128 _ _ shamt => shamtFits shamt
  | .shr256 _ _ shamt => shamtFits shamt
  | .shr512 _ _ shamt => shamtFits shamt
  | .cmp128 _ _ => true
  | .cmp256 _ _ => true
  | .cmp512 _ _ => true
  | .upcDq _ _ => true
  | .upcQo _ _ => true
  | .upcDo _ _ => true
  | .dncQd _ _ => true
  | .dncOq _ _ => true
  | .dncOd _ _ => true
  | .snrQd _ _ => true
  | .snrOq _ _ => true
  | .snrOd _ _ => true
  | .mdf128 _ _ _ _ => true
  | .mdf256 _ _ _ _ => true
  | .mdc128 _ _ _ _ => true
  | .mdc256 _ _ _ _ => true
  | .divn128 _ _ _ => true
  | .divn256 _ _ _ => true
  | .t2sp _ _ => true
  | .sp2t _ _ => true
  | .tli _ imm => imm20Fits imm
  | .tas _ _ => true
  | .bmset _ => true
  | .bmclr _ => true
  | .bmtst _ => true
  | .bmnext _ _ _ _ => true
  | .bmaddr _ => true
  | .nop => true

end Sys2Proof
end

