-- ==== Sys2Proof/Decode.lean ====
section
/-! DEFINITION. Decode.lean: the opcode table, the decoder it decides (30_encoding.md R94, R96) and the
encoder (R97). One word length, no mode (R90); every bit outside a row's fields is checked (R100). -/

namespace Sys2Proof

/-! ## Fields of a command word (30_encoding.md R91, R93) -/

/-- The 3-bit register field whose lowest bit is `lo`. -/
def regAt (c : CommandWord) (lo : Nat) : Reg := Fin.ofNat 8 (c.extractLsb' lo 3).toNat

/-- `imm16`, bits 15:0, unsigned. -/
def imm16At (c : CommandWord) : Nat := (c.extractLsb' 0 16).toNat

/-- `shamt`, bits 9:0, unsigned. -/
def shamtAt (c : CommandWord) : Nat := (c.extractLsb' 0 10).toNat

/-- `imm20`, bits 19:0, two's complement. -/
def imm20At (c : CommandWord) : Int := (c.extractLsb' 0 20).toInt

/-- `fn[0]` of `BMNEXT` (43_bitmap.md R225). -/
def directionAt (c : CommandWord) : Direction := if c.getLsbD 0 then .up else .down

/-- `fn[1]` of `BMNEXT` (43_bitmap.md R225). -/
def inclusiveAt (c : CommandWord) : Bool := c.getLsbD 1

/-! ## The opcode table (30_encoding.md R96) -/

/-- One row: a word `c` is the row's command iff `c AND mask = value` (the table's `match`). -/
structure OpcodeRow where
  /-- The row's mnemonic. -/
  mnemonic : String
  /-- The bits the row fixes. -/
  mask : BitVec 32
  /-- The values of those bits. -/
  value : BitVec 32
  /-- The command a matching word is, its fields read at the positions of R91. -/
  build : CommandWord → Instr

/-- The word matches the row (30_encoding.md R94). -/
def OpcodeRow.matchesWord (r : OpcodeRow) (c : CommandWord) : Bool := c &&& r.mask == r.value

/-- Wide arithmetic rows (R121 to R131). -/
def wideRows : List OpcodeRow := [
  ⟨"WLI.128", 0xFF8F0000, 0x08000000, fun c => .wli128 (regAt c 20) (imm16At c)⟩,
  ⟨"WLI.256", 0xFF8F0000, 0x09000000, fun c => .wli256 (regAt c 20) (imm16At c)⟩,
  ⟨"WLI.512", 0xFF8F0000, 0x0A000000, fun c => .wli512 (regAt c 20) (imm16At c)⟩,
  ⟨"ADD.128", 0xFF888FFF, 0x10000000, fun c => .add128 (regAt c 20) (regAt c 16) (regAt c 12)⟩,
  ⟨"ADD.256", 0xFF888FFF, 0x11000000, fun c => .add256 (regAt c 20) (regAt c 16) (regAt c 12)⟩,
  ⟨"ADD.512", 0xFF888FFF, 0x12000000, fun c => .add512 (regAt c 20) (regAt c 16) (regAt c 12)⟩,
  ⟨"SUB.128", 0xFF888FFF, 0x14000000, fun c => .sub128 (regAt c 20) (regAt c 16) (regAt c 12)⟩,
  ⟨"SUB.256", 0xFF888FFF, 0x15000000, fun c => .sub256 (regAt c 20) (regAt c 16) (regAt c 12)⟩,
  ⟨"SUB.512", 0xFF888FFF, 0x16000000, fun c => .sub512 (regAt c 20) (regAt c 16) (regAt c 12)⟩,
  ⟨"MULW.128", 0xFF888FFF, 0x18000000, fun c => .mulw128 (regAt c 20) (regAt c 16) (regAt c 12)⟩,
  ⟨"MULW.256", 0xFF888FFF, 0x19000000, fun c => .mulw256 (regAt c 20) (regAt c 16) (regAt c 12)⟩,
  ⟨"DIV.128", 0xFF888FFF, 0x1C000000, fun c => .div128 (regAt c 20) (regAt c 16) (regAt c 12)⟩,
  ⟨"DIV.256", 0xFF888FFF, 0x1D000000, fun c => .div256 (regAt c 20) (regAt c 16) (regAt c 12)⟩,
  ⟨"DIV.512", 0xFF888FFF, 0x1E000000, fun c => .div512 (regAt c 20) (regAt c 16) (regAt c 12)⟩,
  ⟨"SHL.128", 0xFF88FC00, 0x20000000, fun c => .shl128 (regAt c 20) (regAt c 16) (shamtAt c)⟩,
  ⟨"SHL.256", 0xFF88FC00, 0x21000000, fun c => .shl256 (regAt c 20) (regAt c 16) (shamtAt c)⟩,
  ⟨"SHL.512", 0xFF88FC00, 0x22000000, fun c => .shl512 (regAt c 20) (regAt c 16) (shamtAt c)⟩,
  ⟨"SHR.128", 0xFF88FC00, 0x24000000, fun c => .shr128 (regAt c 20) (regAt c 16) (shamtAt c)⟩,
  ⟨"SHR.256", 0xFF88FC00, 0x25000000, fun c => .shr256 (regAt c 20) (regAt c 16) (shamtAt c)⟩,
  ⟨"SHR.512", 0xFF88FC00, 0x26000000, fun c => .shr512 (regAt c 20) (regAt c 16) (shamtAt c)⟩,
  ⟨"CMP.128", 0xFFF88FFF, 0x28000000, fun c => .cmp128 (regAt c 16) (regAt c 12)⟩,
  ⟨"CMP.256", 0xFFF88FFF, 0x29000000, fun c => .cmp256 (regAt c 16) (regAt c 12)⟩,
  ⟨"CMP.512", 0xFFF88FFF, 0x2A000000, fun c => .cmp512 (regAt c 16) (regAt c 12)⟩,
  ⟨"UPC.dq", 0xFF88FFFF, 0x2C000000, fun c => .upcDq (regAt c 20) (regAt c 16)⟩,
  ⟨"UPC.qo", 0xFF88FFFF, 0x2D000000, fun c => .upcQo (regAt c 20) (regAt c 16)⟩,
  ⟨"UPC.do", 0xFF88FFFF, 0x2E000000, fun c => .upcDo (regAt c 20) (regAt c 16)⟩,
  ⟨"DNC.qd", 0xFF88FFFF, 0x30000000, fun c => .dncQd (regAt c 20) (regAt c 16)⟩,
  ⟨"DNC.oq", 0xFF88FFFF, 0x31000000, fun c => .dncOq (regAt c 20) (regAt c 16)⟩,
  ⟨"DNC.od", 0xFF88FFFF, 0x32000000, fun c => .dncOd (regAt c 20) (regAt c 16)⟩,
  ⟨"SNR.qd", 0xFF88FFFF, 0x34000000, fun c => .snrQd (regAt c 20) (regAt c 16)⟩,
  ⟨"SNR.oq", 0xFF88FFFF, 0x35000000, fun c => .snrOq (regAt c 20) (regAt c 16)⟩,
  ⟨"SNR.od", 0xFF88FFFF, 0x36000000, fun c => .snrOd (regAt c 20) (regAt c 16)⟩]

/-- Multiply-divide and narrowing-divide rows (R161 to R163). -/
def mulDivRows : List OpcodeRow := [
  ⟨"MDF.128", 0xFF8888FF, 0x38000000, fun c => .mdf128 (regAt c 20) (regAt c 16) (regAt c 12) (regAt c 8)⟩,
  ⟨"MDF.256", 0xFF8888FF, 0x39000000, fun c => .mdf256 (regAt c 20) (regAt c 16) (regAt c 12) (regAt c 8)⟩,
  ⟨"MDC.128", 0xFF8888FF, 0x3C000000, fun c => .mdc128 (regAt c 20) (regAt c 16) (regAt c 12) (regAt c 8)⟩,
  ⟨"MDC.256", 0xFF8888FF, 0x3D000000, fun c => .mdc256 (regAt c 20) (regAt c 16) (regAt c 12) (regAt c 8)⟩,
  ⟨"DIVN.128", 0xFF888FFF, 0x40000000, fun c => .divn128 (regAt c 20) (regAt c 16) (regAt c 12)⟩,
  ⟨"DIVN.256", 0xFF888FFF, 0x41000000, fun c => .divn256 (regAt c 20) (regAt c 16) (regAt c 12)⟩]

/-- Converter rows (R183, R185). -/
def converterRows : List OpcodeRow := [
  ⟨"T2SP", 0xFF88FFFF, 0x50000000, fun c => .t2sp (regAt c 20) (regAt c 16)⟩,
  ⟨"SP2T", 0xFF88FFFF, 0x54000000, fun c => .sp2t (regAt c 20) (regAt c 16)⟩]

/-- Tick and bitmap rows (R211, R220 to R226). -/
def bitmapRows : List OpcodeRow := [
  ⟨"TLI", 0xFF800000, 0x58000000, fun c => .tli (regAt c 20) (imm20At c)⟩,
  ⟨"TAS", 0xFF88FFFF, 0x5C000000, fun c => .tas (regAt c 20) (regAt c 16)⟩,
  ⟨"BMSET", 0xFFF8FFFF, 0x60000000, fun c => .bmset (regAt c 16)⟩,
  ⟨"BMCLR", 0xFFF8FFFF, 0x64000000, fun c => .bmclr (regAt c 16)⟩,
  ⟨"BMTST", 0xFFF8FFFF, 0x68000000, fun c => .bmtst (regAt c 16)⟩,
  ⟨"BMNEXT", 0xFF88FFFC, 0x6C000000, fun c => .bmnext (regAt c 20) (regAt c 16) (directionAt c) (inclusiveAt c)⟩,
  ⟨"BMADDR", 0xFFF8FFFF, 0x70000000, fun c => .bmaddr (regAt c 16)⟩]

/-- System rows (R250). -/
def systemRows : List OpcodeRow := [
  ⟨"NOP", 0xFFFFFFFF, 0x04000000, fun _ => .nop⟩]

/-- The whole table, 48 rows (30_encoding.md R96). -/
def opcodeTable : List OpcodeRow :=
  wideRows ++ mulDivRows ++ converterRows ++ bitmapRows ++ systemRows

/-! ## Decoding (30_encoding.md R94, R98) -/

/-- Why a word is illegal. Every one of them raises `IllegalCommand` (R98, R262); the three names are
the model's own (log 18). -/
inductive Illegal where
  /-- Bits 31:26 are an `op` no row has (R95). Safe: the command traps, as R262 says. -/
  | unassignedOp
  /-- The `op` is assigned and bits 25:24 are a code it does not admit (R95). Safe, as above. -/
  | unassignedWidth
  /-- A reserved bit, an unused field or an unassigned `fn` bit is not zero (R98, R100). Safe, as above. -/
  | reservedBits
deriving DecidableEq, Repr

/-- The `op` field, bits 31:26 (30_encoding.md R91). -/
def opField (c : CommandWord) : BitVec 6 := c.extractLsb' 26 6

/-- The `w` field, bits 25:24 (30_encoding.md R91). -/
def widthField (c : CommandWord) : BitVec 2 := c.extractLsb' 24 2

/-- Which part of R98 makes a word that matches no row illegal. -/
def illegalReason (c : CommandWord) : Illegal :=
  let sameOp := opcodeTable.filter (fun r => opField r.value == opField c)
  if sameOp.isEmpty then .unassignedOp
  else if sameOp.any (fun r => widthField r.value == widthField c) then .reservedBits
  else .unassignedWidth

/-- The decoder: total on command words, reading no state (30_encoding.md R94). -/
def decode (c : CommandWord) : Except Illegal Instr :=
  match opcodeTable.find? (fun r => r.matchesWord c) with
  | some r => .ok (r.build c)
  | none => .error (illegalReason c)

/-- The instruction the decoder reads from an opcode-table word of `nbits` bits (bits above `nbits`
are 0). A command word is the 32 bits of R90; a number that has no such word is refused. -/
def decodeTableWord (nbits w : Nat) : Option Instr :=
  if w % 2 ^ nbits < 2 ^ 32 then
    match decode (BitVec.ofNat 32 (w % 2 ^ nbits)) with
    | .ok i => some i
    | .error _ => none
  else none

/-! ## Encoding (30_encoding.md R97) -/

/-- A register field: `r << lo`. -/
def regField (r : Reg) (lo : Nat) : CommandWord := (BitVec.ofNat 3 r.val).setWidth 32 <<< lo

/-- The `imm16` field. -/
def imm16Field (imm : Nat) : CommandWord := (BitVec.ofNat 16 imm).setWidth 32

/-- The `shamt` field. -/
def shamtField (shamt : Nat) : CommandWord := (BitVec.ofNat 10 shamt).setWidth 32

/-- The `imm20` field, `trunc_20(imm20)`. -/
def imm20Field (imm : Int) : CommandWord := (BitVec.ofInt 20 imm).setWidth 32

/-- `fn[0]` of `BMNEXT`. -/
def directionField (dir : Direction) : CommandWord :=
  match dir with
  | .up => 1
  | .down => 0

/-- `fn[1]` of `BMNEXT`. -/
def inclusiveField (incl : Bool) : CommandWord := if incl then 2 else 0

/-- The word of a command, `match OR (rd << 20) OR …` (30_encoding.md R97). An immediate that does not
fit its field is cut to it; such a command is not well formed and no word decodes to it (log 14). -/
def encode : Instr → CommandWord
  | .wli128 rd imm => 0x08000000 ||| regField rd 20 ||| imm16Field imm
  | .wli256 rd imm => 0x09000000 ||| regField rd 20 ||| imm16Field imm
  | .wli512 rd imm => 0x0A000000 ||| regField rd 20 ||| imm16Field imm
  | .add128 rd ra rb => 0x10000000 ||| regField rd 20 ||| regField ra 16 ||| regField rb 12
  | .add256 rd ra rb => 0x11000000 ||| regField rd 20 ||| regField ra 16 ||| regField rb 12
  | .add512 rd ra rb => 0x12000000 ||| regField rd 20 ||| regField ra 16 ||| regField rb 12
  | .sub128 rd ra rb => 0x14000000 ||| regField rd 20 ||| regField ra 16 ||| regField rb 12
  | .sub256 rd ra rb => 0x15000000 ||| regField rd 20 ||| regField ra 16 ||| regField rb 12
  | .sub512 rd ra rb => 0x16000000 ||| regField rd 20 ||| regField ra 16 ||| regField rb 12
  | .mulw128 rd ra rb => 0x18000000 ||| regField rd 20 ||| regField ra 16 ||| regField rb 12
  | .mulw256 rd ra rb => 0x19000000 ||| regField rd 20 ||| regField ra 16 ||| regField rb 12
  | .div128 rd ra rb => 0x1C000000 ||| regField rd 20 ||| regField ra 16 ||| regField rb 12
  | .div256 rd ra rb => 0x1D000000 ||| regField rd 20 ||| regField ra 16 ||| regField rb 12
  | .div512 rd ra rb => 0x1E000000 ||| regField rd 20 ||| regField ra 16 ||| regField rb 12
  | .shl128 rd ra shamt => 0x20000000 ||| regField rd 20 ||| regField ra 16 ||| shamtField shamt
  | .shl256 rd ra shamt => 0x21000000 ||| regField rd 20 ||| regField ra 16 ||| shamtField shamt
  | .shl512 rd ra shamt => 0x22000000 ||| regField rd 20 ||| regField ra 16 ||| shamtField shamt
  | .shr128 rd ra shamt => 0x24000000 ||| regField rd 20 ||| regField ra 16 ||| shamtField shamt
  | .shr256 rd ra shamt => 0x25000000 ||| regField rd 20 ||| regField ra 16 ||| shamtField shamt
  | .shr512 rd ra shamt => 0x26000000 ||| regField rd 20 ||| regField ra 16 ||| shamtField shamt
  | .cmp128 ra rb => 0x28000000 ||| regField ra 16 ||| regField rb 12
  | .cmp256 ra rb => 0x29000000 ||| regField ra 16 ||| regField rb 12
  | .cmp512 ra rb => 0x2A000000 ||| regField ra 16 ||| regField rb 12
  | .upcDq rd ra => 0x2C000000 ||| regField rd 20 ||| regField ra 16
  | .upcQo rd ra => 0x2D000000 ||| regField rd 20 ||| regField ra 16
  | .upcDo rd ra => 0x2E000000 ||| regField rd 20 ||| regField ra 16
  | .dncQd rd ra => 0x30000000 ||| regField rd 20 ||| regField ra 16
  | .dncOq rd ra => 0x31000000 ||| regField rd 20 ||| regField ra 16
  | .dncOd rd ra => 0x32000000 ||| regField rd 20 ||| regField ra 16
  | .snrQd rd ra => 0x34000000 ||| regField rd 20 ||| regField ra 16
  | .snrOq rd ra => 0x35000000 ||| regField rd 20 ||| regField ra 16
  | .snrOd rd ra => 0x36000000 ||| regField rd 20 ||| regField ra 16
  | .mdf128 rd rv rn rm => 0x38000000 ||| regField rd 20 ||| regField rv 16 ||| regField rn 12 ||| regField rm 8
  | .mdf256 rd rv rn rm => 0x39000000 ||| regField rd 20 ||| regField rv 16 ||| regField rn 12 ||| regField rm 8
  | .mdc128 rd rv rn rm => 0x3C000000 ||| regField rd 20 ||| regField rv 16 ||| regField rn 12 ||| regField rm 8
  | .mdc256 rd rv rn rm => 0x3D000000 ||| regField rd 20 ||| regField rv 16 ||| regField rn 12 ||| regField rm 8
  | .divn128 rd ra rb => 0x40000000 ||| regField rd 20 ||| regField ra 16 ||| regField rb 12
  | .divn256 rd ra rb => 0x41000000 ||| regField rd 20 ||| regField ra 16 ||| regField rb 12
  | .t2sp rd ra => 0x50000000 ||| regField rd 20 ||| regField ra 16
  | .sp2t rd ra => 0x54000000 ||| regField rd 20 ||| regField ra 16
  | .tli rd imm => 0x58000000 ||| regField rd 20 ||| imm20Field imm
  | .tas rd ra => 0x5C000000 ||| regField rd 20 ||| regField ra 16
  | .bmset ra => 0x60000000 ||| regField ra 16
  | .bmclr ra => 0x64000000 ||| regField ra 16
  | .bmtst ra => 0x68000000 ||| regField ra 16
  | .bmnext rd ra dir incl => 0x6C000000 ||| regField rd 20 ||| regField ra 16 ||| directionField dir ||| inclusiveField incl
  | .bmaddr ra => 0x70000000 ||| regField ra 16
  | .nop => 0x04000000

end Sys2Proof
end

