-- ==== Sys2Proof/Machine/Ops.lean ====
section
/-! DEFINITION. Ops.lean: the named operations over registers and memory (00_scope.md R11), retiring a
command (10_state.md R26), raising a fault and acknowledging it (60_exceptions.md R270, R273). -/

namespace Sys2Proof.Machine

/-- What one command or one step answers. -/
abbrev StepResult := Host.Outcome State Fault Refusal

/-! ## Registers (00_scope.md R11) -/

/-- `t[r]`, read as a signed integer. -/
def State.readT (s : State) (r : TReg) : Int := (s.t.get r).toInt

/-- `t[r] <- v`, the 32-bit two's complement pattern of `v`. -/
def State.writeT (s : State) (r : TReg) (v : Int) : State :=
  { s with t := s.t.set r.val (BitVec.ofInt 32 v) r.isLt }

/-- `W[r]`: register `r` of the file, read as an unsigned integer. -/
def State.readWide (s : State) (f : WideFile) (r : Reg) : Nat :=
  match f with
  | .d => (s.d.get r).toNat
  | .q => (s.q.get r).toNat
  | .o => (s.o.get r).toNat

/-- `W[r] <- v`, the low `W` bits of `v`. -/
def State.writeWide (s : State) (f : WideFile) (r : Reg) (v : Nat) : State :=
  match f with
  | .d => { s with d := s.d.set r.val (BitVec.ofNat 128 v) r.isLt }
  | .q => { s with q := s.q.set r.val (BitVec.ofNat 256 v) r.isLt }
  | .o => { s with o := s.o.set r.val (BitVec.ofNat 512 v) r.isLt }

/-- `BADDR <- v` (10_state.md R34). -/
def State.writeBaddr (s : State) (v : BitVec 26) : State := { s with baddr := v }

/-- The bitmap memories replaced. -/
def State.withMem (s : State) (m : Memory) : State := { s with mem := m }

/-! ## Memory: bytes, then 64-bit words in one byte order (20_memory.md R70) -/

/-- The byte at an address. -/
def Memory.byteAt : Memory → Nat → Byte
  | [], _ => unlistedByte
  | (b, w) :: m, a => if a = b then w else Memory.byteAt m a

/-- A byte in front of a list of higher addresses, left out when it is what an unlisted one reads as. -/
def Memory.consByte (a : Nat) (v : Byte) (m : Memory) : Memory :=
  if v = unlistedByte then m else (a, v) :: m

/-- The memory with the byte at an address replaced; it keeps the canonical form. -/
def Memory.writeByte : Memory → Nat → Byte → Memory
  | [], a, v => Memory.consByte a v []
  | (b, w) :: m, a, v =>
    if a < b then Memory.consByte a v ((b, w) :: m)
    else if a = b then Memory.consByte a v m
    else (b, w) :: Memory.writeByte m a v

/-- The little-endian integer of `n` bytes from an address up. -/
def Memory.readLE (m : Memory) (a : Nat) : Nat → Nat
  | 0 => 0
  | n + 1 => (m.byteAt a).toNat + 256 * Memory.readLE m (a + 1) n

/-- The low `n` bytes of `v` stored little-endian from an address up. -/
def Memory.writeLE (m : Memory) (a v : Nat) : Nat → Memory
  | 0 => m
  | n + 1 => Memory.writeLE (m.writeByte a (BitVec.ofNat 8 v)) (a + 1) (v / 256) n

/-- The 64-bit word at a port byte offset (20_memory.md R62, R69). -/
def Memory.readWord (m : Memory) (a : Nat) : PortWord := BitVec.ofNat 64 (m.readLE a 8)

/-- The 64-bit word at a port byte offset replaced. -/
def Memory.writeWord (m : Memory) (a : Nat) (v : PortWord) : Memory := m.writeLE a v.toNat 8

/-- A word with bit `n` set to `b`, its other 63 bits kept (43_bitmap.md R217). -/
def setWordBit (w : PortWord) (n : Nat) (b : Bool) : PortWord :=
  if b then w ||| BitVec.twoPow 64 n else w &&& ~~~ BitVec.twoPow 64 n

/-! ## Retiring, raising, acknowledging -/

/-- The command retires: `PC <- (PC + 1) mod 2^64` (10_state.md R26). -/
def State.retire (s : State) : State := { s with pc := s.pc + 1 }

/-- A command's writes, already made in `s`, take effect and it retires (00_scope.md R11). -/
def complete (s : State) : StepResult := .next s.retire

/-- The causes of a fault (60_exceptions.md R261). -/
inductive Cause where
  | illegalCommand
  | divisionByZero
  | arithmeticOverflow
  | invalidTick
  | invalidSqrtPrice
  | invalidStartIndex
deriving DecidableEq, Repr

/-- The cause code (60_exceptions.md R261). -/
def Cause.code : Cause → BitVec 4
  | .illegalCommand => 1
  | .divisionByZero => 2
  | .arithmeticOverflow => 3
  | .invalidTick => 4
  | .invalidSqrtPrice => 5
  | .invalidStartIndex => 6

/-- Trap entry: `CAUSE` and `ECMD` are written and nothing else changes; `PC` names the raising
command (60_exceptions.md R270). -/
def State.raise (s : State) (e : Cause) (word : CommandWord) : State :=
  { s with cause := e.code, ecmd := word }

/-- A command raises: trap entry, from the state before any write of it (60_exceptions.md R270). -/
def trap (e : Cause) (word : CommandWord) (s : State) : StepResult := .next (s.raise e word)

/-- Trap acknowledge, the return from a fault: `CAUSE` cleared and `PC` advanced past the faulting
command; nothing when no fault is pending; `ECMD` is kept (60_exceptions.md R273). -/
def State.acknowledge (s : State) : State :=
  if s.cause = 0 then s else { s with cause := 0, pc := s.pc + 1 }

end Sys2Proof.Machine
end

