-- ==== Sys2Proof/Machine/Operands.lean ====
section
/-! DEFINITION. Operands.lean: the operand forms that need more than a register read: the tick and
price domains, the span, the start-index check and the address of a slot (43_bitmap.md R212 to R221). -/

namespace Sys2Proof.Machine

/-! ## Domains -/

/-- A tick of `[MIN_TICK, MAX_TICK]` (60_exceptions.md R265; the same set as `abs ≤ MAX_TICK`). -/
def tickInDomain (tick : Int) : Bool := decide (minTick ≤ tick ∧ tick ≤ maxTick)

/-- A price of `[MIN_SQRT_PRICE_X64, MAX_SQRT_PRICE_X64)` (60_exceptions.md R266). -/
def priceInDomain (p : Nat) : Bool := decide (minSqrtPrice ≤ p ∧ p < maxSqrtPrice)

/-! ## Slots (43_bitmap.md R212 to R214, R221) -/

/-- The span `S = TSPACE * ARRAY_SIZE`, exact (R212). -/
def State.span (s : State) : Int := (s.tspace.toNat : Int) * s.cfg.arraySize

/-- `slot(x) = fdiv(x, S)` (R213). -/
def slotOf (span x : Int) : Int := Int.fdiv x span

/-- `startOf(x) = slot(x) * S`, rounded toward negative infinity (R213). -/
def startOf (span x : Int) : Int := slotOf span x * span

/-- `KMIN = fdiv(MIN_TICK, S)` (R214). -/
def State.kmin (s : State) : Int := slotOf s.span minTick

/-- `KMAX = fdiv(MAX_TICK, S)` (R214). -/
def State.kmax (s : State) : Int := slotOf s.span maxTick

/-- `checkStart`: the slot of a valid start index; none for one that is unaligned or whose slot is
outside `[KMIN, KMAX]` (R221). -/
def State.checkStart (s : State) (x : Int) : Option Int :=
  if Int.fmod x s.span ≠ 0 then none
  else if slotOf s.span x < s.kmin ∨ s.kmax < slotOf s.span x then none
  else some (slotOf s.span x)

/-! ## The address of a slot (43_bitmap.md R215) -/

/-- The three bitmap memories (10_state.md R36). -/
inductive Region where
  | prim
  | extp
  | extn
deriving DecidableEq, Repr

/-- Where a slot's bit stands: region, block (0 for `PRIM`), word, bit. -/
structure SlotAddress where
  region : Region
  block : Nat
  word : Nat
  bit : Nat
deriving DecidableEq, Repr

/-- A position inside a region or block, split into word and bit. -/
def SlotAddress.ofPos (region : Region) (block pos : Nat) : SlotAddress :=
  ⟨region, block, pos / 64, pos % 64⟩

/-- The address of slot `k` (R215), with floor division and modulus on the negative side. -/
def slotAddress (c : Config) (k : Int) : SlotAddress :=
  let g := k + c.half
  if 0 ≤ g ∧ g < c.primBits then .ofPos .prim 0 g.toNat
  else if (c.primBits : Int) ≤ g then
    let e := (g - c.primBits).toNat
    .ofPos .extp (e / c.extBlockBits) (e % c.extBlockBits)
  else
    .ofPos .extn (-(Int.fdiv g c.extBlockBits) - 1).toNat (Int.fmod g c.extBlockBits).toNat

/-- The port byte offset of the word a slot address names (20_memory.md R63). -/
def SlotAddress.offset (c : Config) (a : SlotAddress) : Nat :=
  match a.region with
  | .prim => 0x1000 + 8 * a.word
  | .extp => 0x2000 + 8 * (a.block * c.extBlockWords + a.word)
  | .extn => 0x4000 + 8 * (a.block * c.extBlockWords + a.word)

/-- The `REGION` code (10_state.md R34). -/
def Region.code : Region → Nat
  | .prim => 0
  | .extp => 1
  | .extn => 2

/-- The address packed as `BADDR` (10_state.md R34, 43_bitmap.md R226). -/
def SlotAddress.toBaddr (a : SlotAddress) : BitVec 26 :=
  BitVec.ofNat 26 (a.region.code <<< 24 ||| a.block <<< 16 ||| a.word <<< 8 ||| a.bit)

/-- The port byte offset of the word that holds slot `k`'s bit. -/
def State.slotOffset (s : State) (k : Int) : Nat := (slotAddress s.cfg k).offset s.cfg

/-- `BitRead(k)` (43_bitmap.md R216). -/
def State.bitRead (s : State) (k : Int) : Bool :=
  (s.mem.readWord (s.slotOffset k)).getLsbD (slotAddress s.cfg k).bit

/-- `BitWrite(k, b)` (43_bitmap.md R217). -/
def State.bitWrite (s : State) (k : Int) (b : Bool) : State :=
  s.withMem (s.mem.writeWord (s.slotOffset k)
    (setWordBit (s.mem.readWord (s.slotOffset k)) (slotAddress s.cfg k).bit b))

/-! ## The directional search (43_bitmap.md R225) -/

/-- The least slot with a set bit among `k, k + 1, …` (`n` of them). -/
def State.searchUp (s : State) : Nat → Int → Option Int
  | 0, _ => none
  | n + 1, k => if s.bitRead k then some k else State.searchUp s n (k + 1)

/-- The greatest slot with a set bit among `k, k - 1, …` (`n` of them). -/
def State.searchDown (s : State) : Nat → Int → Option Int
  | 0, _ => none
  | n + 1, k => if s.bitRead k then some k else State.searchDown s n (k - 1)

/-- The first candidate of a search from slot `k0`: itself if inclusive, else its neighbour (R225). -/
def searchStart (dir : Direction) (incl : Bool) (k0 : Int) : Int :=
  if incl then k0
  else
    match dir with
    | .up => k0 + 1
    | .down => k0 - 1

/-- The nearest set bit from slot `k0` in the given direction, inside `[KMIN, KMAX]` (R225). -/
def State.search (s : State) (dir : Direction) (incl : Bool) (k0 : Int) : Option Int :=
  let k := searchStart dir incl k0
  match dir with
  | .up => s.searchUp (s.kmax - k + 1).toNat k
  | .down => s.searchDown (k - s.kmin + 1).toNat k

end Sys2Proof.Machine
end

