-- ==== Sys2Proof/Machine/Bitmap.lean ====
section
/-! DEFINITION. Bitmap.lean: the tick-register and bitmap commands (43_bitmap.md R211, R220 to R226). -/

namespace Sys2Proof.Machine

/-- The five bitmap commands' shared shape: an operand that is not a valid start index raises
`InvalidStartIndex`; otherwise the command acts on its slot (R221). -/
def withSlot (ra : TReg) (word : CommandWord) (s : State) (act : Int → StepResult) : StepResult :=
  match s.checkStart (s.readT ra) with
  | none => trap .invalidStartIndex word s
  | some k => act k

/-- `TLI` (R211): any 20-bit value; the tick domain is not checked. -/
def execTli (rd : TReg) (imm : Int) (s : State) : StepResult := complete (s.writeT rd imm)

/-- `TAS` (R220): the start index of the tick's array. -/
def execTas (rd ra : TReg) (s : State) : StepResult :=
  if tickInDomain (s.readT ra) then complete (s.writeT rd (startOf s.span (s.readT ra)))
  else trap .invalidTick (encode (.tas rd ra)) s

/-- `BMSET` (R222). -/
def execBmset (ra : TReg) (s : State) : StepResult :=
  withSlot ra (encode (.bmset ra)) s fun k => complete (s.bitWrite k true)

/-- `BMCLR` (R223). -/
def execBmclr (ra : TReg) (s : State) : StepResult :=
  withSlot ra (encode (.bmclr ra)) s fun k => complete (s.bitWrite k false)

/-- `BMTST` (R224). -/
def execBmtst (ra : TReg) (s : State) : StepResult :=
  withSlot ra (encode (.bmtst ra)) s fun k => complete (s.setF (s.bitRead k))

/-- `BMNEXT` (R225), all four forms: `t[rd]` keeps its value when nothing is found. -/
def execBmnext (rd ra : TReg) (dir : Direction) (incl : Bool) (s : State) : StepResult :=
  withSlot ra (encode (.bmnext rd ra dir incl)) s fun k0 =>
    match s.search dir incl k0 with
    | none => complete (s.setF false)
    | some k => complete ((s.writeT rd (k * s.span)).setF true)

/-- `BMADDR` (R226). -/
def execBmaddr (ra : TReg) (s : State) : StepResult :=
  withSlot ra (encode (.bmaddr ra)) s fun k =>
    complete (s.writeBaddr (slotAddress s.cfg k).toBaddr)

end Sys2Proof.Machine
end

