-- ==== Sys2Proof/Machine/TickMath.lean ====
section
/-! DEFINITION. TickMath.lean: the Q64.64 converter's two functions (42_converter.md R182, R186) and the
hardware's procedure for the second (R187). -/

namespace Sys2Proof.Machine

/-- The constants, `KTAB[0..18]`. -/
abbrev Ktab := Vector (BitVec 64) 19

/-! ## Tick to square-root price (42_converter.md R182) -/

/-- One conditional fixed-point multiplication: exact product, then floor. -/
def ratioStep (k : Ktab) (a : Nat) (r : Nat) (i : Fin 19) : Nat :=
  if a.testBit i.val then r * (k.get i).toNat / 2 ^ 64 else r

/-- The bit positions 1 to 18, in the ascending order that is part of the function. -/
def ratioBits : List (Fin 19) := [1, 2, 3, 4, 5, 6, 7, 8, 9, 10, 11, 12, 13, 14, 15, 16, 17, 18]

/-- The accumulator of R182 for `a = abs(tick)` before the inversion: a select on bit 0, then the
conditional multiplications. -/
def ratio (k : Ktab) (a : Nat) : Nat :=
  ratioBits.foldl (ratioStep k a) (if a.testBit 0 then (k.get 0).toNat else q64One)

/-- `tickToSqrtPrice(tick)` (R182). The inversion applies to strictly positive ticks only. A table
under which the accumulator reaches 0 is no configuration of the block (log 8). -/
def tickToSqrtPrice (k : Ktab) (tick : Int) : Nat :=
  if 0 < tick then (2 ^ 128 - 1) / ratio k tick.natAbs else ratio k tick.natAbs

/-! ## Square-root price to tick (42_converter.md R186) -/

/-- Bisection of the ticks `lo ≤ t < hi`, keeping `tickToSqrtPrice lo ≤ p < tickToSqrtPrice hi`, for at
most `n` halvings. -/
def bisectTick (k : Ktab) (p : Nat) : Nat → Int → Int → Int
  | 0, lo, _ => lo
  | n + 1, lo, hi =>
    if hi - lo ≤ 1 then lo
    else if tickToSqrtPrice k ((lo + hi) / 2) ≤ p then bisectTick k p n ((lo + hi) / 2) hi
    else bisectTick k p n lo ((lo + hi) / 2)

/-- `sqrtPriceToTick(p)`: the tick `t` with `tickToSqrtPrice(t) ≤ p < tickToSqrtPrice(t + 1)` (R186, the
normative definition; log 7). The domain has fewer than `2^20` ticks. -/
def sqrtPriceToTick (k : Ktab) (p : Nat) : Int := bisectTick k p 20 minTick maxTick

/-! ## The hardware's procedure (42_converter.md R187, R188) -/

/-- Step (b): the input normalised so that `2^63 ≤ r < 2^64`, given its highest bit `m`. -/
def normalisePrice (p m : Nat) : Nat := if 63 ≤ m then p >>> (m - 63) else p <<< (63 - m)

/-- Step (c): `n` rounds of squaring; returns the fraction accumulated from bit weight `bit` down. -/
def logFraction : Nat → Nat → Nat → Nat → Nat
  | 0, _, _, frac => frac
  | n + 1, r, bit, frac =>
    let sq := r * r
    let hi := sq >>> 127
    logFraction n (sq >>> (63 + hi)) (bit >>> 1) (frac + bit * hi)

/-- Steps (a) to (d): the scaled logarithm `L` of a valid price. -/
def scaledLog (p : Nat) : Int :=
  let m := Nat.log2 p
  let frac := logFraction bitPrecision (normalisePrice p m) (2 ^ 63) 0
  (((m : Int) - 64) * 2 ^ 32 + ((frac >>> 32 : Nat) : Int)) * logMult

/-- Step (e): the low candidate, `(L - C_LOW) >>s 64`. -/
def tickLow (p : Nat) : Int := Int.fdiv (scaledLog p - cLow) (2 ^ 64)

/-- Step (e): the high candidate, `(L + C_HIGH) >>s 64`. -/
def tickHigh (p : Nat) : Int := Int.fdiv (scaledLog p + cHigh) (2 ^ 64)

/-- Step (f): the procedure's result (R187). R186 governs where the two differ (log 7). -/
def sqrtPriceToTickProcedure (k : Ktab) (p : Nat) : Int :=
  if tickToSqrtPrice k (tickHigh p) ≤ p then tickHigh p else tickLow p

end Sys2Proof.Machine
end

