-- ==== Sys2Proof/Machine/Converter.lean ====
section
/-! DEFINITION. Converter.lean: the two converter commands (42_converter.md R183, R185). -/

namespace Sys2Proof.Machine

/-- `T2SP` (R183): a tick outside the domain raises `InvalidTick`, `-2^31` included. -/
def execT2sp (rd : DReg) (ra : TReg) (s : State) : StepResult :=
  if tickInDomain (s.readT ra) then
    complete (s.writeWide .d rd (tickToSqrtPrice s.cfg.ktab (s.readT ra)))
  else trap .invalidTick (encode (.t2sp rd ra)) s

/-- `SP2T` (R185): a price outside the half-open domain raises `InvalidSqrtPrice`. -/
def execSp2t (rd : TReg) (ra : DReg) (s : State) : StepResult :=
  if priceInDomain (s.readWide .d ra) then
    complete (s.writeT rd (sqrtPriceToTick s.cfg.ktab (s.readWide .d ra)))
  else trap .invalidSqrtPrice (encode (.sp2t rd ra)) s

end Sys2Proof.Machine
end

