-- ==== Sys2Proof/Machine/MulDiv.lean ====
section
/-! DEFINITION. MulDiv.lean: multiply-divide and the narrowing divider (41_muldiv.md R160 to R168). The
double-width product is exact and is not state (R160). -/

namespace Sys2Proof.Machine

/-- The narrowing half shared by the three (R161 to R163): the zero divisor is tested first and alone
decides the cause; then the quotient's range (R167). -/
def narrowingDivide (f : WideFile) (rd : Reg) (num den : Nat) (word : CommandWord) (s : State) :
    StepResult :=
  if den = 0 then trap .divisionByZero word s
  else if 2 ^ f.bits ≤ num / den then trap .arithmeticOverflow word s
  else complete (s.writeWide f rd (num / den))

/-- `DIVN.W` (R161): a dividend of twice the width. -/
def divnOp (f wide : WideFile) (rd ra rb : Reg) (word : CommandWord) (s : State) : StepResult :=
  narrowingDivide f rd (s.readWide wide ra) (s.readWide f rb) word s

/-- `MDF.W` (R162): the floor of `value * num / denom`. -/
def mdfOp (f : WideFile) (rd rv rn rm : Reg) (word : CommandWord) (s : State) : StepResult :=
  narrowingDivide f rd (s.readWide f rv * s.readWide f rn) (s.readWide f rm) word s

/-- `MDC.W` (R163): the ceiling, as `(value * num + denom - 1) / denom`. -/
def mdcOp (f : WideFile) (rd rv rn rm : Reg) (word : CommandWord) (s : State) : StepResult :=
  narrowingDivide f rd (s.readWide f rv * s.readWide f rn + (s.readWide f rm - 1))
    (s.readWide f rm) word s

/-- `MDF.128` (R162). -/
def execMdf128 (rd : DReg) (rv : DReg) (rn : DReg) (rm : DReg) (s : State) : StepResult :=
  mdfOp .d rd rv rn rm (encode (.mdf128 rd rv rn rm)) s

/-- `MDF.256` (R162). -/
def execMdf256 (rd : QReg) (rv : QReg) (rn : QReg) (rm : QReg) (s : State) : StepResult :=
  mdfOp .q rd rv rn rm (encode (.mdf256 rd rv rn rm)) s

/-- `MDC.128` (R163). -/
def execMdc128 (rd : DReg) (rv : DReg) (rn : DReg) (rm : DReg) (s : State) : StepResult :=
  mdcOp .d rd rv rn rm (encode (.mdc128 rd rv rn rm)) s

/-- `MDC.256` (R163). -/
def execMdc256 (rd : QReg) (rv : QReg) (rn : QReg) (rm : QReg) (s : State) : StepResult :=
  mdcOp .q rd rv rn rm (encode (.mdc256 rd rv rn rm)) s

/-- `DIVN.128` (R161). -/
def execDivn128 (rd : DReg) (ra : QReg) (rb : DReg) (s : State) : StepResult :=
  divnOp .d .q rd ra rb (encode (.divn128 rd ra rb)) s

/-- `DIVN.256` (R161). -/
def execDivn256 (rd : QReg) (ra : OReg) (rb : QReg) (s : State) : StepResult :=
  divnOp .q .o rd ra rb (encode (.divn256 rd ra rb)) s

end Sys2Proof.Machine
end

