-- ==== Sys2Proof/Machine/System.lean ====
section
/-! DEFINITION. System.lean: the one system command (44_system.md R250). -/

namespace Sys2Proof.Machine

/-- `NOP` (R250): retires and writes nothing. -/
def execNop (s : State) : StepResult := complete s

end Sys2Proof.Machine
end

