-- ==== Sys2Proof/Machine/WideArith.lean ====
section
/-! DEFINITION. WideArith.lean: the wide arithmetic commands (40_wide_arith.md R120 to R134): each
meaning once over a register file, then one definition per row of the opcode table. All arithmetic is
unsigned and exact; a result is narrowed where its rule says so (R132, R133). -/

namespace Sys2Proof.Machine

/-- `WLI.W` (R121): `W[rd] <- zext_W(imm16)`. -/
def wliOp (f : WideFile) (rd : Reg) (imm : Nat) (s : State) : StepResult :=
  complete (s.writeWide f rd imm)

/-- `ADD.W` (R122): the sum wraps and its carry goes to `C`. -/
def addOp (f : WideFile) (rd ra rb : Reg) (s : State) : StepResult :=
  let sum := s.readWide f ra + s.readWide f rb
  complete ((s.writeWide f rd (sum % 2 ^ f.bits)).setC (carryOf f.bits sum))

/-- `SUB.W` (R123): the difference wraps and its borrow goes to `C`. -/
def subOp (f : WideFile) (rd ra rb : Reg) (s : State) : StepResult :=
  let a := s.readWide f ra
  let b := s.readWide f rb
  complete ((s.writeWide f rd ((2 ^ f.bits + a - b) % 2 ^ f.bits)).setC (borrowOf a b))

/-- `MULW.W` (R124): the exact product, in the file of twice the width. -/
def mulwOp (wide f : WideFile) (rd ra rb : Reg) (s : State) : StepResult :=
  complete (s.writeWide wide rd (s.readWide f ra * s.readWide f rb))

/-- `DIV.W` (R125): the floor of the exact quotient; a zero divisor raises `DivisionByZero`. -/
def divOp (f : WideFile) (rd ra rb : Reg) (word : CommandWord) (s : State) : StepResult :=
  if s.readWide f rb = 0 then trap .divisionByZero word s
  else complete (s.writeWide f rd (s.readWide f ra / s.readWide f rb))

/-- `SHL.W` (R126): the distance is not taken modulo the width. -/
def shlOp (f : WideFile) (rd ra : Reg) (shamt : Nat) (s : State) : StepResult :=
  if f.bits ≤ shamt then complete (s.writeWide f rd 0)
  else complete (s.writeWide f rd (s.readWide f ra * 2 ^ shamt % 2 ^ f.bits))

/-- `SHR.W` (R127): zeros enter at the top. -/
def shrOp (f : WideFile) (rd ra : Reg) (shamt : Nat) (s : State) : StepResult :=
  if f.bits ≤ shamt then complete (s.writeWide f rd 0)
  else complete (s.writeWide f rd (s.readWide f ra / 2 ^ shamt))

/-- `CMP.W` (R128): unsigned; writes `Z` and `L`. -/
def cmpOp (f : WideFile) (ra rb : Reg) (s : State) : StepResult :=
  complete (s.setZL (equalOf (s.readWide f ra) (s.readWide f rb))
    (lessOf (s.readWide f ra) (s.readWide f rb)))

/-- `UPC` (R129): zero extension into the wider file. -/
def upcOp (wide narrow : WideFile) (rd ra : Reg) (s : State) : StepResult :=
  complete (s.writeWide wide rd (s.readWide narrow ra))

/-- `DNC` (R130): the low limbs, for every source value. -/
def dncOp (narrow wide : WideFile) (rd ra : Reg) (s : State) : StepResult :=
  complete (s.writeWide narrow rd (s.readWide wide ra % 2 ^ narrow.bits))

/-- `SNR` (R131): the value if it fits the target width, else zero. -/
def snrOp (narrow wide : WideFile) (rd ra : Reg) (s : State) : StepResult :=
  if s.readWide wide ra < 2 ^ narrow.bits then complete (s.writeWide narrow rd (s.readWide wide ra))
  else complete (s.writeWide narrow rd 0)

/-- `WLI.128` (R121). -/
def execWli128 (rd : DReg) (imm : Nat) (s : State) : StepResult :=
  wliOp .d rd imm s

/-- `WLI.256` (R121). -/
def execWli256 (rd : QReg) (imm : Nat) (s : State) : StepResult :=
  wliOp .q rd imm s

/-- `WLI.512` (R121). -/
def execWli512 (rd : OReg) (imm : Nat) (s : State) : StepResult :=
  wliOp .o rd imm s

/-- `ADD.128` (R122). -/
def execAdd128 (rd : DReg) (ra : DReg) (rb : DReg) (s : State) : StepResult :=
  addOp .d rd ra rb s

/-- `ADD.256` (R122). -/
def execAdd256 (rd : QReg) (ra : QReg) (rb : QReg) (s : State) : StepResult :=
  addOp .q rd ra rb s

/-- `ADD.512` (R122). -/
def execAdd512 (rd : OReg) (ra : OReg) (rb : OReg) (s : State) : StepResult :=
  addOp .o rd ra rb s

/-- `SUB.128` (R123). -/
def execSub128 (rd : DReg) (ra : DReg) (rb : DReg) (s : State) : StepResult :=
  subOp .d rd ra rb s

/-- `SUB.256` (R123). -/
def execSub256 (rd : QReg) (ra : QReg) (rb : QReg) (s : State) : StepResult :=
  subOp .q rd ra rb s

/-- `SUB.512` (R123). -/
def execSub512 (rd : OReg) (ra : OReg) (rb : OReg) (s : State) : StepResult :=
  subOp .o rd ra rb s

/-- `MULW.128` (R124). -/
def execMulw128 (rd : QReg) (ra : DReg) (rb : DReg) (s : State) : StepResult :=
  mulwOp .q .d rd ra rb s

/-- `MULW.256` (R124). -/
def execMulw256 (rd : OReg) (ra : QReg) (rb : QReg) (s : State) : StepResult :=
  mulwOp .o .q rd ra rb s

/-- `DIV.128` (R125). -/
def execDiv128 (rd : DReg) (ra : DReg) (rb : DReg) (s : State) : StepResult :=
  divOp .d rd ra rb (encode (.div128 rd ra rb)) s

/-- `DIV.256` (R125). -/
def execDiv256 (rd : QReg) (ra : QReg) (rb : QReg) (s : State) : StepResult :=
  divOp .q rd ra rb (encode (.div256 rd ra rb)) s

/-- `DIV.512` (R125). -/
def execDiv512 (rd : OReg) (ra : OReg) (rb : OReg) (s : State) : StepResult :=
  divOp .o rd ra rb (encode (.div512 rd ra rb)) s

/-- `SHL.128` (R126). -/
def execShl128 (rd : DReg) (ra : DReg) (shamt : Nat) (s : State) : StepResult :=
  shlOp .d rd ra shamt s

/-- `SHL.256` (R126). -/
def execShl256 (rd : QReg) (ra : QReg) (shamt : Nat) (s : State) : StepResult :=
  shlOp .q rd ra shamt s

/-- `SHL.512` (R126). -/
def execShl512 (rd : OReg) (ra : OReg) (shamt : Nat) (s : State) : StepResult :=
  shlOp .o rd ra shamt s

/-- `SHR.128` (R127). -/
def execShr128 (rd : DReg) (ra : DReg) (shamt : Nat) (s : State) : StepResult :=
  shrOp .d rd ra shamt s

/-- `SHR.256` (R127). -/
def execShr256 (rd : QReg) (ra : QReg) (shamt : Nat) (s : State) : StepResult :=
  shrOp .q rd ra shamt s

/-- `SHR.512` (R127). -/
def execShr512 (rd : OReg) (ra : OReg) (shamt : Nat) (s : State) : StepResult :=
  shrOp .o rd ra shamt s

/-- `CMP.128` (R128). -/
def execCmp128 (ra : DReg) (rb : DReg) (s : State) : StepResult :=
  cmpOp .d ra rb s

/-- `CMP.256` (R128). -/
def execCmp256 (ra : QReg) (rb : QReg) (s : State) : StepResult :=
  cmpOp .q ra rb s

/-- `CMP.512` (R128). -/
def execCmp512 (ra : OReg) (rb : OReg) (s : State) : StepResult :=
  cmpOp .o ra rb s

/-- `UPC.dq` (R129). -/
def execUpcDq (rd : QReg) (ra : DReg) (s : State) : StepResult :=
  upcOp .q .d rd ra s

/-- `UPC.qo` (R129). -/
def execUpcQo (rd : OReg) (ra : QReg) (s : State) : StepResult :=
  upcOp .o .q rd ra s

/-- `UPC.do` (R129). -/
def execUpcDo (rd : OReg) (ra : DReg) (s : State) : StepResult :=
  upcOp .o .d rd ra s

/-- `DNC.qd` (R130). -/
def execDncQd (rd : DReg) (ra : QReg) (s : State) : StepResult :=
  dncOp .d .q rd ra s

/-- `DNC.oq` (R130). -/
def execDncOq (rd : QReg) (ra : OReg) (s : State) : StepResult :=
  dncOp .q .o rd ra s

/-- `DNC.od` (R130). -/
def execDncOd (rd : DReg) (ra : OReg) (s : State) : StepResult :=
  dncOp .d .o rd ra s

/-- `SNR.qd` (R131). -/
def execSnrQd (rd : DReg) (ra : QReg) (s : State) : StepResult :=
  snrOp .d .q rd ra s

/-- `SNR.oq` (R131). -/
def execSnrOq (rd : QReg) (ra : OReg) (s : State) : StepResult :=
  snrOp .q .o rd ra s

/-- `SNR.od` (R131). -/
def execSnrOd (rd : DReg) (ra : OReg) (s : State) : StepResult :=
  snrOp .d .o rd ra s

end Sys2Proof.Machine
end

