-- ==== Sys2Proof/Machine/Dispatch.lean ====
section
/-! DEFINITION. Dispatch.lean: one arm per command, each one call of its meaning. -/

namespace Sys2Proof.Machine

def exec (i : Instr) (s : State) : Host.Outcome State Fault Refusal :=
  match i with
  | .wli128 rd imm => Sys2Proof.Machine.execWli128 rd imm s
  | .wli256 rd imm => Sys2Proof.Machine.execWli256 rd imm s
  | .wli512 rd imm => Sys2Proof.Machine.execWli512 rd imm s
  | .add128 rd ra rb => Sys2Proof.Machine.execAdd128 rd ra rb s
  | .add256 rd ra rb => Sys2Proof.Machine.execAdd256 rd ra rb s
  | .add512 rd ra rb => Sys2Proof.Machine.execAdd512 rd ra rb s
  | .sub128 rd ra rb => Sys2Proof.Machine.execSub128 rd ra rb s
  | .sub256 rd ra rb => Sys2Proof.Machine.execSub256 rd ra rb s
  | .sub512 rd ra rb => Sys2Proof.Machine.execSub512 rd ra rb s
  | .mulw128 rd ra rb => Sys2Proof.Machine.execMulw128 rd ra rb s
  | .mulw256 rd ra rb => Sys2Proof.Machine.execMulw256 rd ra rb s
  | .div128 rd ra rb => Sys2Proof.Machine.execDiv128 rd ra rb s
  | .div256 rd ra rb => Sys2Proof.Machine.execDiv256 rd ra rb s
  | .div512 rd ra rb => Sys2Proof.Machine.execDiv512 rd ra rb s
  | .shl128 rd ra shamt => Sys2Proof.Machine.execShl128 rd ra shamt s
  | .shl256 rd ra shamt => Sys2Proof.Machine.execShl256 rd ra shamt s
  | .shl512 rd ra shamt => Sys2Proof.Machine.execShl512 rd ra shamt s
  | .shr128 rd ra shamt => Sys2Proof.Machine.execShr128 rd ra shamt s
  | .shr256 rd ra shamt => Sys2Proof.Machine.execShr256 rd ra shamt s
  | .shr512 rd ra shamt => Sys2Proof.Machine.execShr512 rd ra shamt s
  | .cmp128 ra rb => Sys2Proof.Machine.execCmp128 ra rb s
  | .cmp256 ra rb => Sys2Proof.Machine.execCmp256 ra rb s
  | .cmp512 ra rb => Sys2Proof.Machine.execCmp512 ra rb s
  | .upcDq rd ra => Sys2Proof.Machine.execUpcDq rd ra s
  | .upcQo rd ra => Sys2Proof.Machine.execUpcQo rd ra s
  | .upcDo rd ra => Sys2Proof.Machine.execUpcDo rd ra s
  | .dncQd rd ra => Sys2Proof.Machine.execDncQd rd ra s
  | .dncOq rd ra => Sys2Proof.Machine.execDncOq rd ra s
  | .dncOd rd ra => Sys2Proof.Machine.execDncOd rd ra s
  | .snrQd rd ra => Sys2Proof.Machine.execSnrQd rd ra s
  | .snrOq rd ra => Sys2Proof.Machine.execSnrOq rd ra s
  | .snrOd rd ra => Sys2Proof.Machine.execSnrOd rd ra s
  | .mdf128 rd rv rn rm => Sys2Proof.Machine.execMdf128 rd rv rn rm s
  | .mdf256 rd rv rn rm => Sys2Proof.Machine.execMdf256 rd rv rn rm s
  | .mdc128 rd rv rn rm => Sys2Proof.Machine.execMdc128 rd rv rn rm s
  | .mdc256 rd rv rn rm => Sys2Proof.Machine.execMdc256 rd rv rn rm s
  | .divn128 rd ra rb => Sys2Proof.Machine.execDivn128 rd ra rb s
  | .divn256 rd ra rb => Sys2Proof.Machine.execDivn256 rd ra rb s
  | .t2sp rd ra => Sys2Proof.Machine.execT2sp rd ra s
  | .sp2t rd ra => Sys2Proof.Machine.execSp2t rd ra s
  | .tli rd imm => Sys2Proof.Machine.execTli rd imm s
  | .tas rd ra => Sys2Proof.Machine.execTas rd ra s
  | .bmset ra => Sys2Proof.Machine.execBmset ra s
  | .bmclr ra => Sys2Proof.Machine.execBmclr ra s
  | .bmtst ra => Sys2Proof.Machine.execBmtst ra s
  | .bmnext rd ra dir incl => Sys2Proof.Machine.execBmnext rd ra dir incl s
  | .bmaddr ra => Sys2Proof.Machine.execBmaddr ra s
  | .nop => Sys2Proof.Machine.execNop s

end Sys2Proof.Machine
end

