-- ==== Sys2Proof/Machine/Command.lean ====
section
/-! DEFINITION. Command.lean: one presented command word executed (20_memory.md R64). -/

namespace Sys2Proof.Machine

/-- A command word executed: decoded, then its meaning; an illegal word raises `IllegalCommand` at
decode (30_encoding.md R94, 60_exceptions.md R262). -/
def runCommand (c : CommandWord) (s : State) : Host.Outcome State Fault Refusal :=
  match decode c with
  | .ok i => exec i s
  | .error _ => trap .illegalCommand c s

end Sys2Proof.Machine
end

