-- ==== Sys2Proof/Machine/HostPort.lean ====
section
/-! DEFINITION. HostPort.lean: the host port: its address map, its view of every register and bitmap
word, and what each host access does (20_memory.md R62 to R71, 60_exceptions.md R273). -/

namespace Sys2Proof.Machine

/-- What a mapped port offset names (20_memory.md R63). -/
inductive PortTarget where
  | cmd
  | flags
  | cause
  | ecmd
  | pc
  | tspace
  | baddr
  | trapack
  /-- `t[r]`. -/
  | tick (r : TReg)
  /-- Limb `j` of register `r` of a wide file. -/
  | limb (f : WideFile) (r : Reg) (j : Nat)
  /-- The bitmap word at this offset. -/
  | bitmapWord (offset : Nat)
deriving DecidableEq, Repr

/-- The offset lies in the mapped part of a bitmap memory (20_memory.md R63). -/
def bitmapMapped (c : Config) (a : Nat) : Bool :=
  let side := 8 * (c.extBlocks * c.extBlockWords)
  decide (0x1000 ≤ a ∧ a < 0x1000 + 8 * c.primWords) ||
  decide (0x2000 ≤ a ∧ a < 0x2000 + side) ||
  decide (0x4000 ≤ a ∧ a < 0x4000 + side)

/-- The eight registers at offsets 0x0000 to 0x0038 (20_memory.md R63). -/
def controlTarget : Nat → PortTarget
  | 0 => .cmd
  | 1 => .flags
  | 2 => .cause
  | 3 => .ecmd
  | 4 => .pc
  | 5 => .tspace
  | 6 => .baddr
  | _ => .trapack

/-- The address map, for a multiple of 8; none for an unmapped offset (20_memory.md R63). -/
def portTarget (c : Config) (a : Nat) : Option PortTarget :=
  if a < 0x0040 then some (controlTarget (a / 8))
  else if 0x0100 ≤ a ∧ a < 0x0140 then some (.tick (Fin.ofNat 8 ((a - 0x0100) / 8)))
  else if 0x0200 ≤ a ∧ a < 0x0280 then
    some (.limb .d (Fin.ofNat 8 ((a - 0x0200) / 16)) ((a - 0x0200) % 16 / 8))
  else if 0x0400 ≤ a ∧ a < 0x0500 then
    some (.limb .q (Fin.ofNat 8 ((a - 0x0400) / 32)) ((a - 0x0400) % 32 / 8))
  else if 0x0800 ≤ a ∧ a < 0x0A00 then
    some (.limb .o (Fin.ofNat 8 ((a - 0x0800) / 64)) ((a - 0x0800) % 64 / 8))
  else if a < 0x8000 ∧ bitmapMapped c a = true then some (.bitmapWord a)
  else none

/-- What an access of `bytes` bytes at an offset names: none if it is rejected as of another width,
misaligned or unmapped (20_memory.md R62, R71). -/
def accessTarget (c : Config) (a bytes : Nat) : Option PortTarget :=
  if bytes = 8 ∧ a % 8 = 0 then portTarget c a else none

/-- Limb `j` of a register's value (20_memory.md R68). -/
def limbOf (v j : Nat) : PortWord := BitVec.ofNat 64 (v / 2 ^ (64 * j))

/-- A register's value with limb `j` replaced, the others kept (20_memory.md R68). -/
def withLimb (v j : Nat) (x : PortWord) : Nat :=
  v - v / 2 ^ (64 * j) % 2 ^ 64 * 2 ^ (64 * j) + x.toNat * 2 ^ (64 * j)

/-- What a host read of the target returns: reserved bits and write-only offsets read 0 (20_memory.md
R63, R67 to R69; 10_state.md R28 to R35). -/
def portRead (s : State) : PortTarget → PortWord
  | .cmd => 0
  | .flags => s.flags.toBits.setWidth 64
  | .cause => s.cause.setWidth 64
  | .ecmd => s.ecmd.setWidth 64
  | .pc => s.pc
  | .tspace => s.tspace.setWidth 64
  | .baddr => s.baddr.setWidth 64
  | .trapack => 0
  | .tick r => (s.t.get r).setWidth 64
  | .limb f r j => limbOf (s.readWide f r) j
  | .bitmapWord a => s.mem.readWord a

/-- `TSPACE` written by the host: bits 15:0, a zero ignored (10_state.md R32). -/
def State.hostWriteTspace (s : State) (v : PortWord) : State :=
  if v.setWidth 16 = 0#16 then s else { s with tspace := v.setWidth 16 }

/-- A tick register written by the host: bits 31:0 (20_memory.md R67). -/
def State.hostWriteT (s : State) (r : TReg) (v : PortWord) : State :=
  { s with t := s.t.set r.val (v.setWidth 32) r.isLt }

/-- One limb written by the host (20_memory.md R68). -/
def State.hostWriteLimb (s : State) (f : WideFile) (r : Reg) (j : Nat) (v : PortWord) : State :=
  s.writeWide f r (withLimb (s.readWide f r) j v)

/-- What one host event does at the port (20_memory.md R62, R64). -/
inductive PortEffect where
  /-- An error response, no state change. -/
  | rejected
  /-- A command word the halted block does not accept. -/
  | heldOff
  /-- A command word the block executes. -/
  | command (word : CommandWord)
  /-- The access is accepted and leaves this state. -/
  | accepted (s : State)

/-- A host write of an accepted offset (20_memory.md R63, R64, R66 to R69; 60_exceptions.md R273). A
write to a read-only offset is accepted and ignored. -/
def portWrite (s : State) (v : PortWord) : PortTarget → PortEffect
  | .cmd =>
    if v.extractLsb' 32 32 ≠ 0#32 then .rejected
    else if s.cause ≠ 0#4 then .heldOff
    else .command (v.setWidth 32)
  | .flags => .accepted s
  | .cause => .accepted s
  | .ecmd => .accepted s
  | .pc => .accepted s
  | .tspace => .accepted (s.hostWriteTspace v)
  | .baddr => .accepted s
  | .trapack => .accepted s.acknowledge
  | .tick r => .accepted (s.hostWriteT r v)
  | .limb f r j => .accepted (s.hostWriteLimb f r j v)
  | .bitmapWord a => .accepted (s.withMem (s.mem.writeWord a v))

/-- The port answers a read (20_memory.md R62, R65: the block's own state does not change). -/
def State.answered (s : State) (v : PortWord) : State := { s with answer := some v }

/-- What the next host event does, in the state that has taken it off the list (20_memory.md R61). The
reset keeps the configuration and what the host does next (70_reset_and_hazards.md R300; log 1). -/
def hostEffect (s : State) : HostEvent → PortEffect
  | .read a bytes =>
    match accessTarget s.cfg a bytes with
    | none => .rejected
    | some x => .accepted (s.answered (portRead s x))
  | .write a bytes v =>
    match accessTarget s.cfg a bytes with
    | none => .rejected
    | some x => portWrite s v x
  | .reset => .accepted (State.resetWith s.cfg s.pending)

/-- The state that has taken the next host event off the list. -/
def State.took (s : State) (rest : List HostEvent) : State := { s with pending := rest, answer := none }

/-- The host event that presents a command word: `MemWrite(0x0000, 8, c)` (20_memory.md R64). -/
def presentCommand (c : CommandWord) : HostEvent := .write 0 8 (c.setWidth 64)

/-- The host event that acknowledges a fault: `MemWrite(0x0038, 8, v)`, any `v` (60_exceptions.md R273). -/
def presentAcknowledge (v : PortWord) : HostEvent := .write 0x0038 8 v

end Sys2Proof.Machine
end

