-- ==== Sys2Proof/Machine/Step.lean ====
section
/-! DEFINITION. Step.lean: one step of the machine: the host's next access, and if it presents a
command word to a block that is not halted, the whole command (20_memory.md R61, R64). -/

namespace Sys2Proof.Machine

/-- One step: the next host access, accepted between commands (20_memory.md R61). -/
def step (s : State) : Host.Outcome State Fault Refusal :=
  match s.pending with
  | [] => .fault .awaitingHost
  | e :: rest =>
    match hostEffect (s.took rest) e with
    | .rejected => .refused .portRejected
    | .heldOff => .fault .heldOff
    | .command c => runCommand c (s.took rest)
    | .accepted s' => .next s'

/-- The state in which the next step runs the command of an opcode-table word: the host's next access
presents it, and the block is not halted (20_memory.md R64; log 13). -/
def State.withFetchWord (s : State) (nbits w : Nat) : State :=
  { s with
    pending := .write 0 8 (BitVec.ofNat 64 (w % 2 ^ nbits)) :: s.pending
    cause := 0 }

end Sys2Proof.Machine
end

