-- ==== Sys2Proof/Machine/LinearView.lean ====
section
/-! DEFINITION. LinearView.lean: the bitmap as one bit string and the word scan over it that hardware
uses for `BMNEXT` (43_bitmap.md R219, R227). `State.search` is the definition of the result (R225);
these are the other description the spec gives of the same thing. -/

namespace Sys2Proof.Machine

/-- `G(k) = k + HALF + SIDE_BITS` (R219). -/
def linIndex (c : Config) (k : Int) : Nat := (k + c.half + c.sideBits).toNat

/-- The port byte offset of word `w` of the linear view: `EXTN` from its last block down to block 0,
`PRIM`, `EXTP` from block 0 up, word 0 of each first (R219). -/
def linOffset (c : Config) (w : Nat) : Nat :=
  let side := c.extBlocks * c.extBlockWords
  if w < side then
    0x4000 + 8 * ((c.extBlocks - 1 - w / c.extBlockWords) * c.extBlockWords + w % c.extBlockWords)
  else if w < side + c.primWords then 0x1000 + 8 * (w - side)
  else 0x2000 + 8 * (w - side - c.primWords)

/-- `Lin.word[w]` (R227). -/
def State.linWord (s : State) (w : Nat) : PortWord := s.mem.readWord (linOffset s.cfg w)

/-- `Lin[G]` (R219). -/
def State.linBit (s : State) (g : Nat) : Bool := (s.linWord (g / 64)).getLsbD (g % 64)

/-- `ctz`: the index of the lowest set bit of a nonzero word (00_scope.md R10). -/
def lowestBit (x : PortWord) : Nat := ((List.range 64).find? (fun i => x.getLsbD i)).getD 64

/-- `msb`: the index of the highest set bit of a nonzero word (00_scope.md R10). -/
def highestBit (x : PortWord) : Nat := ((List.range 64).reverse.find? (fun i => x.getLsbD i)).getD 64

/-- The word with the bits below `i` cleared. -/
def clearBelow (x : PortWord) (i : Nat) : PortWord := x &&& BitVec.allOnes 64 <<< i

/-- The word with the bits above `i` cleared. -/
def clearAbove (x : PortWord) (i : Nat) : PortWord := x &&& ~~~ (BitVec.allOnes 64 <<< (i + 1))

/-- The upward scan from word `w`, whose masked content is `x`, to the word of `gmax` (R227). -/
def State.scanUpFrom (s : State) (gmax : Nat) : Nat → Nat → PortWord → Option Nat
  | 0, _, _ => none
  | n + 1, w, x =>
    let x := if w = gmax / 64 then clearAbove x (gmax % 64) else x
    if x ≠ 0 then some (64 * w + lowestBit x)
    else if w = gmax / 64 then none
    else State.scanUpFrom s gmax n (w + 1) (s.linWord (w + 1))

/-- The upward scan from linear index `g` to `gmax` (R227). -/
def State.scanUp (s : State) (g gmax : Nat) : Option Nat :=
  if gmax < g then none
  else s.scanUpFrom gmax (gmax / 64 - g / 64 + 1) (g / 64) (clearBelow (s.linWord (g / 64)) (g % 64))

/-- The downward scan from word `w`, the mirror image (R227). -/
def State.scanDownFrom (s : State) (gmin : Nat) : Nat → Nat → PortWord → Option Nat
  | 0, _, _ => none
  | n + 1, w, x =>
    let x := if w = gmin / 64 then clearBelow x (gmin % 64) else x
    if x ≠ 0 then some (64 * w + highestBit x)
    else if w = gmin / 64 then none
    else State.scanDownFrom s gmin n (w - 1) (s.linWord (w - 1))

/-- The downward scan from linear index `g` to `gmin` (R227). -/
def State.scanDown (s : State) (g gmin : Nat) : Option Nat :=
  if g < gmin then none
  else s.scanDownFrom gmin (g / 64 - gmin / 64 + 1) (g / 64) (clearAbove (s.linWord (g / 64)) (g % 64))

/-- The slot a linear index stands for, the inverse of `linIndex` (R219). -/
def slotOfLin (c : Config) (g : Nat) : Int := (g : Int) - c.half - c.sideBits

/-- The search done by the word scan (R227). A starting slot just outside the domain has no candidate. -/
def State.scan (s : State) (dir : Direction) (incl : Bool) (k0 : Int) : Option Int :=
  let k := searchStart dir incl k0
  if k < s.kmin ∨ s.kmax < k then none
  else
    match dir with
    | .up => (s.scanUp (linIndex s.cfg k) (linIndex s.cfg s.kmax)).map (slotOfLin s.cfg)
    | .down => (s.scanDown (linIndex s.cfg k) (linIndex s.cfg s.kmin)).map (slotOfLin s.cfg)

end Sys2Proof.Machine
end

