-- ==== Sys2Proof/Machine/Run.lean ====
section
/-! DEFINITION. Run.lean: runs of the machine: of a fixed list of command words and its two ends
(44_system.md R254), and under a host that chooses each access from what it observes (R252). -/

namespace Sys2Proof.Machine

/-! ## A run of a fixed list (10_state.md R25, 44_system.md R254) -/

/-- The state after a step, or the state unchanged where there is no step. -/
def State.settle (s : State) : StepResult → State
  | .next t => t
  | .fault _ => s
  | .refused _ => s

/-- The state after `n` steps, staying in a state from which there is no step. -/
def runFor : Nat → State → State
  | 0, s => s
  | n + 1, s => runFor n (s.settle (step s))

/-- The halted condition (10_state.md R29). -/
def State.halted (s : State) : Prop := s.cause ≠ 0

/-- The host presents exactly the words of `prog`, in order (10_state.md R25). -/
def State.presents (s : State) (prog : List CommandWord) : Prop := s.pending = prog.map presentCommand

/-- A run of `prog` starts here: `CAUSE = 0`, `PC = 0` and the words presented (R254). -/
def State.startsRun (s : State) (prog : List CommandWord) : Prop :=
  s.cause = 0 ∧ s.pc = 0 ∧ s.presents prog

/-- A run of `n` words has ended normally: every word has retired (R254). -/
def State.endedNormally (t : State) (n : Nat) : Prop := t.pending = [] ∧ t.cause = 0 ∧ t.pc.toNat = n

/-- The run of `prog` from `s` has ended halted in `t`: `CAUSE ≠ 0`, `PC` is the index of the faulting
word, `ECMD` is that word, and the rest is as the words before it, all retired, left it (R254; the
port's fields move, log 1, log 3). -/
def State.endedHalted (t s : State) (prog : List CommandWord) : Prop :=
  t.halted ∧ prog[t.pc.toNat]? = some t.ecmd ∧ (runFor t.pc.toNat s).cause = 0 ∧
    t = { runFor t.pc.toNat s with
      cause := t.cause
      ecmd := t.ecmd
      pending := (prog.drop (t.pc.toNat + 1)).map presentCommand
      answer := none }

/-! ## A host that looks (44_system.md R252) -/

/-- What a host can observe: the block and the latest port answer, not accesses to come. -/
def State.observed (s : State) : State := { s with pending := [] }

/-- A host: from the observed state to the next access, or none if it presents nothing more. Not a
field of `State`: a parameter of the run (log 1). -/
abbrev HostFunction := State → Option HostEvent

/-- A host that presents command words only, "a function from the observed state to the next command
word" (R252). -/
def commandHost (f : State → Option CommandWord) : HostFunction := fun s => (f s).map presentCommand

/-- The special case that does not look: the word presented is `prog[PC]` (R252; 10_state.md R25). -/
def listHost (prog : List CommandWord) : HostFunction := commandHost fun s => prog[s.pc.toNat]?

/-- One step under a host: the access it chooses at the observed state, and no other, is presented. -/
def hostStep (h : HostFunction) (s : State) : StepResult :=
  match h s.observed with
  | none => .fault .awaitingHost
  | some e => step { s with pending := [e] }

/-- The state after `n` steps under a host, staying in a state from which there is no step. -/
def hostRunFor (h : HostFunction) : Nat → State → State
  | 0, s => s
  | n + 1, s => hostRunFor h n (s.settle (hostStep h s))

end Sys2Proof.Machine
end

