-- ==== Sys2Proof/Safety.lean ====
section
/-! DEFINITION. Safety.lean: the terms claims use: which configurations are blocks (00_scope.md R7), valid
start indices and candidates of a search, the invariant of every step, and what a command leaves
unchanged. -/

namespace Sys2Proof.Machine

/-! ## Configurations (00_scope.md R7) -/

/-- The constraints on the bitmap's geometry, each one of R7 (with the port map's, 20_memory.md R63). -/
structure Geometry (c : Config) : Prop where
  arraySize_pos : 1 ≤ c.arraySize
  prim_ge : 2 ≤ c.primWords
  prim_even : c.primWords % 2 = 0
  prim_le : c.primWords ≤ 256
  blocks_pos : 1 ≤ c.extBlocks
  blocks_le : c.extBlocks ≤ 256
  blockWords_pos : 1 ≤ c.extBlockWords
  blockWords_le : c.extBlockWords ≤ 256
  side_le : c.extBlocks * c.extBlockWords ≤ 1024
  coverage : maxTick < ((c.half + c.sideBits) * c.arraySize : Nat)

/-- The constraints on `KTAB`: every entry positive (below `2^64` by its type), the two boundary
values, and an accumulator that never reaches 0, the part of "`KTAB[i]` is about the formula" the
rules use (R7, 42_converter.md R182; log 8). -/
structure TableOk (k : Ktab) : Prop where
  entries_pos : ∀ i : Fin 19, 0 < (k.get i).toNat
  bottom : tickToSqrtPrice k minTick = minSqrtPrice
  top : tickToSqrtPrice k maxTick = maxSqrtPrice
  ratio_pos : 0 < ratio k (2 ^ 19 - 1)

/-- The span of every tick spacing fits 32 bits (43_bitmap.md R212; log 8). -/
def SpanFits (c : Config) : Prop := c.arraySize ≤ 32768

/-! ## Start indices -/

/-- A valid start index: aligned, its slot in `[KMIN, KMAX]` (43_bitmap.md R214). -/
def State.validStart (s : State) (x : Int) : Prop :=
  Int.fmod x s.span = 0 ∧ s.kmin ≤ slotOf s.span x ∧ slotOf s.span x ≤ s.kmax

/-- A candidate of a search (43_bitmap.md R225): a slot of the domain on the searched side of `k0`, `k0`
itself only if inclusive, whose bit is set. -/
def State.candidate (s : State) (dir : Direction) (incl : Bool) (k0 k : Int) : Prop :=
  s.kmin ≤ k ∧ k ≤ s.kmax ∧ s.bitRead k = true ∧
    match dir with
    | .up => if incl then k0 ≤ k else k0 < k
    | .down => if incl then k ≤ k0 else k < k0

/-- Slot `k` is no further than slot `k'` in the direction of the search. -/
def nearer (dir : Direction) (k k' : Int) : Prop :=
  match dir with
  | .up => k ≤ k'
  | .down => k' ≤ k

/-! ## The invariant -/

/-- Every listed bitmap byte lies in a mapped word (20_memory.md R63). -/
def MemMapped (c : Config) (m : Memory) : Prop := ∀ x ∈ m, bitmapMapped c x.1 = true

/-- What every step keeps: the memory's canonical form, inside the mapped words; `CAUSE` at most 6
(10_state.md R29); `TSPACE ≥ 1` (R32); `BADDR`'s bits 7:6 zero and `REGION` not 3 (R34); never both `Z`
and `L` (40_wide_arith.md R128); the geometry's constraints (00_scope.md R7). -/
structure State.Inv (s : State) : Prop where
  geometry : Geometry s.cfg
  memory : s.mem.wf
  mapped : MemMapped s.cfg s.mem
  cause_le : s.cause.toNat ≤ 6
  tspace_pos : 1 ≤ s.tspace.toNat
  baddr_reserved : s.baddr.extractLsb' 6 2 = 0#2
  baddr_region : s.baddr.extractLsb' 24 2 ≠ 3#2
  flags_exclusive : ¬ (s.flags.z = true ∧ s.flags.l = true)

/-! ## Frames -/

/-- Every tick register is unchanged. -/
def KeepsTicks (s s' : State) : Prop := ∀ r : TReg, s'.readT r = s.readT r

/-- Every tick register but `rd` is unchanged. -/
def KeepsTicksBut (rd : TReg) (s s' : State) : Prop := ∀ r : TReg, r ≠ rd → s'.readT r = s.readT r

/-- Every wide register is unchanged. -/
def KeepsWide (s s' : State) : Prop := ∀ (f : WideFile) (r : Reg), s'.readWide f r = s.readWide f r

/-- Every wide register but `rd` of file `f` is unchanged. -/
def KeepsWideBut (f : WideFile) (rd : Reg) (s s' : State) : Prop :=
  ∀ (g : WideFile) (r : Reg), ¬ (g = f ∧ r = rd) → s'.readWide g r = s.readWide g r

/-- Every byte of the bitmap memories reads as before. -/
def KeepsMem (s s' : State) : Prop := ∀ a : Nat, s'.mem.byteAt a = s.mem.byteAt a

/-- Every byte outside the 8 bytes of the word at `a` reads as before. -/
def KeepsMemBut (a : Nat) (s s' : State) : Prop :=
  ∀ b : Nat, ¬ (a ≤ b ∧ b < a + 8) → s'.mem.byteAt b = s.mem.byteAt b

/-- The fault registers, `TSPACE` and the model's own fields are unchanged. -/
def KeepsControl (s s' : State) : Prop :=
  s'.cause = s.cause ∧ s'.ecmd = s.ecmd ∧ s'.tspace = s.tspace ∧ s'.cfg = s.cfg ∧
    s'.pending = s.pending ∧ s'.answer = s.answer

/-- Everything but `PC`, the tick and wide registers, `FLAGS` and the bitmap memories is unchanged. -/
def KeepsSpecial (s s' : State) : Prop := KeepsControl s s' ∧ s'.baddr = s.baddr

/-- The command retired: `rd` of wide file `f` holds `v`, `FLAGS` is `fl`, `PC` advanced by 1
(10_state.md R26), and nothing else changed. -/
def RetiresWide (f : WideFile) (rd : Reg) (v : Nat) (fl : Flags) (s s' : State) : Prop :=
  s'.readWide f rd = v ∧ KeepsWideBut f rd s s' ∧ KeepsTicks s s' ∧ KeepsMem s s' ∧
    KeepsSpecial s s' ∧ s'.flags = fl ∧ s'.pc = s.pc + 1

/-- The command retired: `t[rd]` holds `v`, `FLAGS` is `fl`, `PC` advanced by 1, and nothing else
changed. -/
def RetiresTick (rd : TReg) (v : Int) (fl : Flags) (s s' : State) : Prop :=
  s'.readT rd = v ∧ KeepsTicksBut rd s s' ∧ KeepsWide s s' ∧ KeepsMem s s' ∧
    KeepsSpecial s s' ∧ s'.flags = fl ∧ s'.pc = s.pc + 1

/-- The command retired: `FLAGS` is `fl`, `PC` advanced by 1, and nothing else changed. -/
def RetiresFlags (fl : Flags) (s s' : State) : Prop :=
  KeepsTicks s s' ∧ KeepsWide s s' ∧ KeepsMem s s' ∧ KeepsSpecial s s' ∧ s'.flags = fl ∧
    s'.pc = s.pc + 1

/-- The command retired: the bitmap word at port offset `a` is `w`, `PC` advanced by 1, and nothing else
changed. -/
def RetiresWord (a : Nat) (w : PortWord) (s s' : State) : Prop :=
  s'.mem.readWord a = w ∧ KeepsMemBut a s s' ∧ KeepsTicks s s' ∧ KeepsWide s s' ∧
    KeepsSpecial s s' ∧ s'.flags = s.flags ∧ s'.pc = s.pc + 1

/-- The command raised `e`: `CAUSE` and `ECMD` are written and nothing else changed (60_exceptions.md
R270). -/
def RaisesOnly (e : Cause) (word : CommandWord) (s s' : State) : Prop :=
  s' = { s with cause := e.code, ecmd := word }

/-! ## Two runs of one command -/

/-- A part of the state after the same command from two states: kept by both, or written by both with
the same value. -/
def KeptOrSame {α : Type} (old old' new new' : α) : Prop := new = old ∧ new' = old' ∨ new = new'

end Sys2Proof.Machine
end

