-- ==== Sys2Proof/Certificates/Slice0/Obligations.lean ====
section
/-! DEFINITION. Obligations.lean: the statements for the provers, from the numbered rules of spec/. A
statement about several commands of one shape names them in a list with the register files they act
on. -/

open Sys2Proof Sys2Proof.Machine

/-! ## Encoding and decoding (30_encoding.md) -/

/-- Every well-formed command is read back from the word `encode` writes for it. -/
def Obligations.DecodeEncodeRoundTrip : Prop :=
  ∀ i : Instr, i.wellFormed = true → decode (encode i) = .ok i

/-- Every word that decodes is the word of the command it decodes to: no bit of a legal word is
ignored (R100), and the word a faulting command leaves in `ECMD` can be computed from the command. -/
def Obligations.LegalWordIsItsCommandsWord : Prop :=
  ∀ (c : CommandWord) (i : Instr), decode c = .ok i → encode i = c ∧ i.wellFormed = true

/-- R94: at most one row matches a word; if one does, the word is that row's command; if none does, the
word is illegal and raises `IllegalCommand`, whatever the state. -/
def Obligations.TableDecidesDecoding : Prop :=
  ∀ c : CommandWord,
    (∀ r ∈ opcodeTable, ∀ r' ∈ opcodeTable, c &&& r.mask = r.value → c &&& r'.mask = r'.value →
      r.mnemonic = r'.mnemonic) ∧
    (∀ r ∈ opcodeTable, c &&& r.mask = r.value → decode c = .ok (r.build c)) ∧
    ((∀ r ∈ opcodeTable, c &&& r.mask ≠ r.value) →
      ∀ s : State, ∃ t, runCommand c s = .next t ∧ RaisesOnly .illegalCommand c s t)

/-- Words written out from the spec's encodings decode to the commands they stand for. -/
def Obligations.SampleWordsDecode : Prop :=
  decode 0x10312000#32 = .ok (.add128 3 1 2) ∧
  decode 0x09200003#32 = .ok (.wli256 2 3) ∧
  decode 0x20110040#32 = .ok (.shl128 1 1 64) ∧
  decode 0x38012300#32 = .ok (.mdf128 0 1 2 3) ∧
  decode 0x50010000#32 = .ok (.t2sp 0 1) ∧
  decode 0x58093B0C#32 = .ok (.tli 0 (-443636)) ∧
  decode 0x6C210003#32 = .ok (.bmnext 2 1 .up true) ∧
  decode 0x04000000#32 = .ok .nop

/-- R262: a presented word that matches no row of the table raises `IllegalCommand` (code 1) and
nothing else happens; the all-zero and the all-ones word are such words. -/
def Obligations.IllegalWordRaises : Prop :=
  (∀ (s : State) (c : CommandWord) (rest : List HostEvent), s.cause = 0 →
    s.pending = presentCommand c :: rest → (∀ r ∈ opcodeTable, c &&& r.mask ≠ r.value) →
    ∃ t, step s = .next t ∧ RaisesOnly .illegalCommand c (s.took rest) t ∧ t.cause = 1) ∧
  (∀ r ∈ opcodeTable, 0x00000000#32 &&& r.mask ≠ r.value) ∧
  (∀ r ∈ opcodeTable, 0xFFFFFFFF#32 &&& r.mask ≠ r.value)

/-! ## One step (20_memory.md, 60_exceptions.md) -/

/-- A presented word that decodes to `i` makes the step be `exec i` at the state that has taken the
access off the host's list and holds no port answer. -/
def Obligations.StepRunsDecodedCommand : Prop :=
  ∀ (s : State) (c : CommandWord) (rest : List HostEvent) (i : Instr), s.cause = 0 →
    s.pending = presentCommand c :: rest → decode c = .ok i →
    step s = exec i (s.took rest) ∧ s.took rest = { s with pending := rest, answer := none }

/-- R271: a halted block executes no command: a write of a command word to `CMD` is not accepted, and
every step there is comes from a host access that is not a command. -/
def Obligations.HaltedBlockExecutesNoCommand : Prop :=
  (∀ (s : State) (c : CommandWord) (rest : List HostEvent), s.cause ≠ 0 →
    s.pending = presentCommand c :: rest → step s = .fault .heldOff) ∧
  (∀ s t : State, s.cause ≠ 0 → step s = .next t →
    ∃ e rest, s.pending = e :: rest ∧ (∀ v : PortWord, e ≠ .write 0 8 v) ∧
      hostEffect (s.took rest) e = .accepted t)

/-- A misaligned access, one of another width, one to an unmapped offset, and a `CMD` write with a
nonzero upper half have no step. -/
def Obligations.RejectedAccessHasNoStep : Prop :=
  (∀ (s : State) (a n : Nat) (rest : List HostEvent),
    (n ≠ 8 ∨ a % 8 ≠ 0 ∨ portTarget s.cfg a = none) →
    (s.pending = .read a n :: rest ∨ ∃ v, s.pending = .write a n v :: rest) →
    step s = .refused .portRejected) ∧
  (∀ (s : State) (v : PortWord) (rest : List HostEvent), 2 ^ 32 ≤ v.toNat →
    s.pending = .write 0 8 v :: rest → step s = .refused .portRejected)

/-- Every command has a result in every state: it never stops the machine. -/
def Obligations.EveryCommandAnswers : Prop :=
  ∀ (i : Instr) (s : State), ∃ t, exec i s = .next t

/-! ## Wide arithmetic (40_wide_arith.md) -/

/-- R121: the immediate, zero-extended, and nothing else. -/
def Obligations.WliLoadsImmediate : Prop :=
  ∀ (s : State) (rd : Reg) (imm : Nat) (f : WideFile) (m : CommandWord) (i : Instr), i.wellFormed = true →
    (f, m, i) ∈ [(WideFile.d, 0x08000000#32, Instr.wli128 rd imm), (.q, 0x09000000#32, .wli256 rd imm),
      (.o, 0x0A000000#32, .wli512 rd imm)] →
    encode i = m ||| regField rd 20 ||| BitVec.ofNat 32 imm ∧
    ∃ t, exec i s = .next t ∧ RetiresWide f rd imm s.flags s t

/-- R122: the sum modulo `2^W`, its carry in `C`, and nothing else. -/
def Obligations.AddWrapsAndCarries : Prop :=
  ∀ (s : State) (rd ra rb : Reg) (f : WideFile) (m : CommandWord) (i : Instr),
    (f, m, i) ∈ [(WideFile.d, 0x10000000#32, Instr.add128 rd ra rb),
      (.q, 0x11000000#32, .add256 rd ra rb), (.o, 0x12000000#32, .add512 rd ra rb)] →
    encode i = m ||| regField rd 20 ||| regField ra 16 ||| regField rb 12 ∧
    ∃ t, exec i s = .next t ∧
      RetiresWide f rd ((s.readWide f ra + s.readWide f rb) % 2 ^ f.bits)
        { s.flags with c := decide (2 ^ f.bits ≤ s.readWide f ra + s.readWide f rb) } s t

/-- R123: the difference, raised by `2^W` if it borrows, the borrow in `C`, and nothing else. -/
def Obligations.SubWrapsAndBorrows : Prop :=
  ∀ (s : State) (rd ra rb : Reg) (f : WideFile) (m : CommandWord) (i : Instr),
    (f, m, i) ∈ [(WideFile.d, 0x14000000#32, Instr.sub128 rd ra rb),
      (.q, 0x15000000#32, .sub256 rd ra rb), (.o, 0x16000000#32, .sub512 rd ra rb)] →
    encode i = m ||| regField rd 20 ||| regField ra 16 ||| regField rb 12 ∧
    ∃ t, exec i s = .next t ∧
      RetiresWide f rd
        (if s.readWide f rb ≤ s.readWide f ra then s.readWide f ra - s.readWide f rb
          else s.readWide f ra + 2 ^ f.bits - s.readWide f rb)
        { s.flags with c := decide (s.readWide f ra < s.readWide f rb) } s t

/-- R124: the exact product, in the file of twice the width. -/
def Obligations.MulwExactProduct : Prop :=
  ∀ (s : State) (rd ra rb : Reg) (f wide : WideFile) (m : CommandWord) (i : Instr),
    (f, wide, m, i) ∈ [(WideFile.d, WideFile.q, 0x18000000#32, Instr.mulw128 rd ra rb),
      (.q, .o, 0x19000000#32, .mulw256 rd ra rb)] →
    encode i = m ||| regField rd 20 ||| regField ra 16 ||| regField rb 12 ∧
    ∃ t, exec i s = .next t ∧
      RetiresWide wide rd (s.readWide f ra * s.readWide f rb) s.flags s t

/-- R125: the floor of the quotient; a zero divisor raises `DivisionByZero` (code 2). -/
def Obligations.DivFloorOrZeroDivisor : Prop :=
  ∀ (s : State) (rd ra rb : Reg) (f : WideFile) (m : CommandWord) (i : Instr),
    (f, m, i) ∈ [(WideFile.d, 0x1C000000#32, Instr.div128 rd ra rb),
      (.q, 0x1D000000#32, .div256 rd ra rb), (.o, 0x1E000000#32, .div512 rd ra rb)] →
    encode i = m ||| regField rd 20 ||| regField ra 16 ||| regField rb 12 ∧
    (s.readWide f rb ≠ 0 → ∃ t, exec i s = .next t ∧
      RetiresWide f rd (s.readWide f ra / s.readWide f rb) s.flags s t) ∧
    (s.readWide f rb = 0 → ∃ t, exec i s = .next t ∧
      RaisesOnly .divisionByZero (encode i) s t ∧ t.cause = 2)

/-- R126: the left shift; a distance of the width or more gives 0. -/
def Obligations.ShlByDistance : Prop :=
  ∀ (s : State) (rd ra : Reg) (n : Nat) (f : WideFile) (m : CommandWord) (i : Instr), i.wellFormed = true →
    (f, m, i) ∈ [(WideFile.d, 0x20000000#32, Instr.shl128 rd ra n),
      (.q, 0x21000000#32, .shl256 rd ra n), (.o, 0x22000000#32, .shl512 rd ra n)] →
    encode i = m ||| regField rd 20 ||| regField ra 16 ||| BitVec.ofNat 32 n ∧
    ∃ t, exec i s = .next t ∧
      RetiresWide f rd (if f.bits ≤ n then 0 else s.readWide f ra * 2 ^ n % 2 ^ f.bits) s.flags s t

/-- R127: the right shift; a distance of the width or more gives 0. -/
def Obligations.ShrByDistance : Prop :=
  ∀ (s : State) (rd ra : Reg) (n : Nat) (f : WideFile) (m : CommandWord) (i : Instr), i.wellFormed = true →
    (f, m, i) ∈ [(WideFile.d, 0x24000000#32, Instr.shr128 rd ra n),
      (.q, 0x25000000#32, .shr256 rd ra n), (.o, 0x26000000#32, .shr512 rd ra n)] →
    encode i = m ||| regField rd 20 ||| regField ra 16 ||| BitVec.ofNat 32 n ∧
    ∃ t, exec i s = .next t ∧
      RetiresWide f rd (if f.bits ≤ n then 0 else s.readWide f ra / 2 ^ n) s.flags s t

/-- R128: `Z` and `L` from an unsigned compare, never both, and nothing else. -/
def Obligations.CmpSetsZAndL : Prop :=
  ∀ (s : State) (ra rb : Reg) (f : WideFile) (m : CommandWord) (i : Instr),
    (f, m, i) ∈ [(WideFile.d, 0x28000000#32, Instr.cmp128 ra rb), (.q, 0x29000000#32, .cmp256 ra rb),
      (.o, 0x2A000000#32, .cmp512 ra rb)] →
    encode i = m ||| regField ra 16 ||| regField rb 12 ∧
    ∃ t, exec i s = .next t ∧ ¬ (t.flags.z = true ∧ t.flags.l = true) ∧
      RetiresFlags { s.flags with
        z := decide (s.readWide f ra = s.readWide f rb)
        l := decide (s.readWide f ra < s.readWide f rb) } s t

/-- R129: the upcast keeps the value, and the downcast of the same pair gives the source back. -/
def Obligations.UpcLosesNothing : Prop :=
  ∀ (s : State) (rd ra rx : Reg) (narrow wide : WideFile) (m : CommandWord)
    (up down : Instr),
    (narrow, wide, m, up, down) ∈
      [(WideFile.d, WideFile.q, 0x2C000000#32, Instr.upcDq rd ra, Instr.dncQd rx rd),
        (.q, .o, 0x2D000000#32, .upcQo rd ra, .dncOq rx rd),
        (.d, .o, 0x2E000000#32, .upcDo rd ra, .dncOd rx rd)] →
    encode up = m ||| regField rd 20 ||| regField ra 16 ∧
    ∃ t, exec up s = .next t ∧ RetiresWide wide rd (s.readWide narrow ra) s.flags s t ∧
      ∃ u, exec down t = .next u ∧ RetiresWide narrow rx (s.readWide narrow ra) t.flags t u

/-- R130: the downcast keeps the low limbs of every source value. -/
def Obligations.DncTruncates : Prop :=
  ∀ (s : State) (rd ra : Reg) (narrow wide : WideFile) (m : CommandWord) (i : Instr),
    (narrow, wide, m, i) ∈ [(WideFile.d, WideFile.q, 0x30000000#32, Instr.dncQd rd ra),
      (.q, .o, 0x31000000#32, .dncOq rd ra), (.d, .o, 0x32000000#32, .dncOd rd ra)] →
    encode i = m ||| regField rd 20 ||| regField ra 16 ∧
    ∃ t, exec i s = .next t ∧
      RetiresWide narrow rd (s.readWide wide ra % 2 ^ narrow.bits) s.flags s t

/-- R131: the value where it fits the target width, zero where it does not. -/
def Obligations.SnrKeepsOrClampsToZero : Prop :=
  ∀ (s : State) (rd ra : Reg) (narrow wide : WideFile) (m : CommandWord) (i : Instr),
    (narrow, wide, m, i) ∈ [(WideFile.d, WideFile.q, 0x34000000#32, Instr.snrQd rd ra),
      (.q, .o, 0x35000000#32, .snrOq rd ra), (.d, .o, 0x36000000#32, .snrOd rd ra)] →
    encode i = m ||| regField rd 20 ||| regField ra 16 ∧
    ∃ t, exec i s = .next t ∧
      RetiresWide narrow rd
        (if s.readWide wide ra ≤ 2 ^ narrow.bits - 1 then s.readWide wide ra else 0) s.flags s t

/-! ## Multiply-divide (41_muldiv.md) -/

/-- R161: the quotient of a dividend of twice the width, where it fits; `DivisionByZero` (code 2) for a
zero divisor, else `ArithmeticOverflow` (code 3) where it does not fit. -/
def Obligations.DivnNarrowsOrFaults : Prop :=
  ∀ (s : State) (rd ra rb : Reg) (f wide : WideFile) (m : CommandWord) (i : Instr),
    (f, wide, m, i) ∈ [(WideFile.d, WideFile.q, 0x40000000#32, Instr.divn128 rd ra rb),
      (.q, .o, 0x41000000#32, .divn256 rd ra rb)] →
    encode i = m ||| regField rd 20 ||| regField ra 16 ||| regField rb 12 ∧
    (s.readWide f rb ≠ 0 → s.readWide wide ra / s.readWide f rb < 2 ^ f.bits →
      ∃ t, exec i s = .next t ∧
        RetiresWide f rd (s.readWide wide ra / s.readWide f rb) s.flags s t) ∧
    (s.readWide f rb = 0 →
      ∃ t, exec i s = .next t ∧ RaisesOnly .divisionByZero (encode i) s t ∧ t.cause = 2) ∧
    (s.readWide f rb ≠ 0 → 2 ^ f.bits ≤ s.readWide wide ra / s.readWide f rb →
      ∃ t, exec i s = .next t ∧ RaisesOnly .arithmeticOverflow (encode i) s t ∧ t.cause = 3)

/-- R162: the floor of `value * num / denom` where it fits, else the fault, zero divisor first. -/
def Obligations.MdfFloorOrFaults : Prop :=
  ∀ (s : State) (rd rv rn rm : Reg) (f : WideFile) (m : CommandWord) (i : Instr),
    (f, m, i) ∈ [(WideFile.d, 0x38000000#32, Instr.mdf128 rd rv rn rm),
      (.q, 0x39000000#32, .mdf256 rd rv rn rm)] →
    encode i = m ||| regField rd 20 ||| regField rv 16 ||| regField rn 12 ||| regField rm 8 ∧
    (s.readWide f rm ≠ 0 → s.readWide f rv * s.readWide f rn / s.readWide f rm < 2 ^ f.bits →
      ∃ t, exec i s = .next t ∧
        RetiresWide f rd (s.readWide f rv * s.readWide f rn / s.readWide f rm) s.flags s t) ∧
    (s.readWide f rm = 0 →
      ∃ t, exec i s = .next t ∧ RaisesOnly .divisionByZero (encode i) s t ∧ t.cause = 2) ∧
    (s.readWide f rm ≠ 0 → 2 ^ f.bits ≤ s.readWide f rv * s.readWide f rn / s.readWide f rm →
      ∃ t, exec i s = .next t ∧ RaisesOnly .arithmeticOverflow (encode i) s t ∧ t.cause = 3)

/-- R163: the ceiling of `value * num / denom`, that is, the `r` with
`value * num ≤ r * denom < value * num + denom`, where it fits; else the fault, zero divisor first. -/
def Obligations.MdcCeilOrFaults : Prop :=
  ∀ (s : State) (rd rv rn rm : Reg) (f : WideFile) (m : CommandWord) (i : Instr),
    (f, m, i) ∈ [(WideFile.d, 0x3C000000#32, Instr.mdc128 rd rv rn rm),
      (.q, 0x3D000000#32, .mdc256 rd rv rn rm)] →
    encode i = m ||| regField rd 20 ||| regField rv 16 ||| regField rn 12 ||| regField rm 8 ∧
    (∀ r, s.readWide f rv * s.readWide f rn ≤ r * s.readWide f rm →
      r * s.readWide f rm < s.readWide f rv * s.readWide f rn + s.readWide f rm →
      (r < 2 ^ f.bits → ∃ t, exec i s = .next t ∧ RetiresWide f rd r s.flags s t) ∧
      (2 ^ f.bits ≤ r →
        ∃ t, exec i s = .next t ∧ RaisesOnly .arithmeticOverflow (encode i) s t ∧ t.cause = 3)) ∧
    (s.readWide f rm = 0 →
      ∃ t, exec i s = .next t ∧ RaisesOnly .divisionByZero (encode i) s t ∧ t.cause = 2)

/-- R165: `MDF` does to `W[rd]`, to `CAUSE` and to whether it retires what `MULW` into a temporary and
then `DIVN` do. -/
def Obligations.MdfIsMulwThenDivn : Prop :=
  ∀ (s : State) (rd rv rn rm ry : Reg) (f : WideFile) (mdf mulw divn : Instr),
    (f, mdf, mulw, divn) ∈
      [(WideFile.d, Instr.mdf128 rd rv rn rm, Instr.mulw128 ry rv rn, Instr.divn128 rd ry rm),
        (.q, .mdf256 rd rv rn rm, .mulw256 ry rv rn, .divn256 rd ry rm)] →
    ∃ x t u, exec mdf s = .next x ∧ exec mulw s = .next t ∧ exec divn t = .next u ∧
      x.readWide f rd = u.readWide f rd ∧ x.cause = u.cause ∧ (x.pc = s.pc + 1 ↔ u.pc = t.pc + 1)

/-- R165: `MDC` does to `W[rd]` and to `CAUSE` what the six-command sequence of the rule does, its
temporaries `yT`, `yU`, `yONE` being three registers of the wider file. -/
def Obligations.MdcIsSixCommands : Prop :=
  ∀ (s : State) (rd rv rn rm yT yU y1 : Reg) (f : WideFile) (mdc c1 c2 c3 c4 c5 c6 : Instr),
    yT ≠ yU → yT ≠ y1 → yU ≠ y1 →
    (f, mdc, c1, c2, c3, c4, c5, c6) ∈
      [(WideFile.d, Instr.mdc128 rd rv rn rm, Instr.mulw128 yT rv rn, Instr.upcDq yU rm,
          Instr.wli256 y1 1, Instr.sub256 yU yU y1, Instr.add256 yT yT yU, Instr.divn128 rd yT rm),
        (.q, .mdc256 rd rv rn rm, .mulw256 yT rv rn, .upcQo yU rm, .wli512 y1 1, .sub512 yU yU y1,
          .add512 yT yT yU, .divn256 rd yT rm)] →
    ∃ x s1 s2 s3 s4 s5 s6, exec mdc s = .next x ∧ exec c1 s = .next s1 ∧ exec c2 s1 = .next s2 ∧
      exec c3 s2 = .next s3 ∧ exec c4 s3 = .next s4 ∧ exec c5 s4 = .next s5 ∧
      exec c6 s5 = .next s6 ∧ x.readWide f rd = s6.readWide f rd ∧ x.cause = s6.cause ∧
      (x.pc = s.pc + 1 ↔ s6.pc = s5.pc + 1)

/-- R166: where both retire the floor is at most the ceiling and at most one below it, equal exactly
when the denominator divides the product; where the ceiling retires the floor does, and where only the
floor retires it is the greatest value and not exact. -/
def Obligations.FloorAndCeilSandwich : Prop :=
  ∀ (s : State) (rd rv rn rm : Reg) (f : WideFile) (mdf mdc : Instr),
    (f, mdf, mdc) ∈ [(WideFile.d, Instr.mdf128 rd rv rn rm, Instr.mdc128 rd rv rn rm),
      (.q, .mdf256 rd rv rn rm, .mdc256 rd rv rn rm)] →
    ∃ t u, exec mdf s = .next t ∧ exec mdc s = .next u ∧
      (u.pc = s.pc + 1 → t.pc = s.pc + 1 ∧ t.readWide f rd ≤ u.readWide f rd ∧
        u.readWide f rd ≤ t.readWide f rd + 1 ∧
        (t.readWide f rd = u.readWide f rd ↔
          s.readWide f rm ∣ s.readWide f rv * s.readWide f rn)) ∧
      (t.pc = s.pc + 1 → u.pc ≠ s.pc + 1 → t.readWide f rd = 2 ^ f.bits - 1 ∧
        ¬ s.readWide f rm ∣ s.readWide f rv * s.readWide f rn)

/-! ## Converter (42_converter.md) -/

/-- R183: the square-root price of a tick of the domain; any other tick raises `InvalidTick` (code 4). -/
def Obligations.T2spConvertsOrRaises : Prop :=
  ∀ (s : State) (rd : DReg) (ra : TReg),
    encode (.t2sp rd ra) = 0x50000000#32 ||| regField rd 20 ||| regField ra 16 ∧
    ((s.readT ra).natAbs ≤ 443636 → ∃ t, exec (.t2sp rd ra) s = .next t ∧
      RetiresWide .d rd (tickToSqrtPrice s.cfg.ktab (s.readT ra)) s.flags s t) ∧
    (443636 < (s.readT ra).natAbs → ∃ t, exec (.t2sp rd ra) s = .next t ∧
      RaisesOnly .invalidTick (encode (.t2sp rd ra)) s t ∧ t.cause = 4)

/-- R185 and the postcondition of R186: on a valid price the result is a tick `x` of
`[MIN_TICK, MAX_TICK - 1]` with `tickToSqrtPrice(x) ≤ p < tickToSqrtPrice(x + 1)`, for every table that
gives the two boundary values; any other price raises `InvalidSqrtPrice` (code 5). -/
def Obligations.Sp2tBracketsThePrice : Prop :=
  ∀ (s : State) (rd : TReg) (ra : DReg),
    encode (.sp2t rd ra) = 0x54000000#32 ||| regField rd 20 ||| regField ra 16 ∧
    (TableOk s.cfg.ktab → 4295048016 ≤ s.readWide .d ra → s.readWide .d ra < 79226673521066979257578248091 →
      ∃ t x, exec (.sp2t rd ra) s = .next t ∧ RetiresTick rd x s.flags s t ∧
        -443636 ≤ x ∧ x ≤ 443635 ∧ tickToSqrtPrice s.cfg.ktab x ≤ s.readWide .d ra ∧
        s.readWide .d ra < tickToSqrtPrice s.cfg.ktab (x + 1)) ∧
    (s.readWide .d ra < 4295048016 ∨ 79226673521066979257578248091 ≤ s.readWide .d ra →
      ∃ t, exec (.sp2t rd ra) s = .next t ∧
        RaisesOnly .invalidSqrtPrice (encode (.sp2t rd ra)) s t ∧ t.cause = 5)

/-- R184, for the reference table: strict monotonicity over the tick domain, the two boundary values,
and the range of `T2SP`. -/
def Obligations.ReferenceTableStrictlyMonotone : Prop :=
  (∀ t1 t2 : Int, -443636 ≤ t1 → t1 < t2 → t2 ≤ 443636 →
    tickToSqrtPrice referenceKtab t1 < tickToSqrtPrice referenceKtab t2) ∧
  tickToSqrtPrice referenceKtab (-443636) = 4295048016 ∧
  tickToSqrtPrice referenceKtab 443636 = 79226673521066979257578248091 ∧
  (∀ t : Int, -443636 ≤ t → t ≤ 443636 → 4295048016 ≤ tickToSqrtPrice referenceKtab t ∧
    tickToSqrtPrice referenceKtab t ≤ 79226673521066979257578248091)

/-- R191, for the reference table: `T2SP` then `SP2T` gives the tick back below `MAX_TICK`; at
`MAX_TICK` the second command raises `InvalidSqrtPrice`; any other tick raises `InvalidTick` at the
first. -/
def Obligations.ReferenceTableRoundTrip : Prop :=
  ∀ (s : State) (ra rc : TReg) (rd : DReg), s.cfg.ktab = referenceKtab → s.cause = 0 →
    ∃ t, exec (.t2sp rd ra) s = .next t ∧
      (-443636 ≤ s.readT ra → s.readT ra ≤ 443635 →
        ∃ u, exec (.sp2t rc rd) t = .next u ∧ u.readT rc = s.readT ra ∧ u.cause = 0) ∧
      (s.readT ra = 443636 → t.cause = 0 ∧
        ∃ u, exec (.sp2t rc rd) t = .next u ∧ RaisesOnly .invalidSqrtPrice (encode (.sp2t rc rd)) t u) ∧
      (s.readT ra < -443636 ∨ 443636 < s.readT ra →
        RaisesOnly .invalidTick (encode (.t2sp rd ra)) s t)

/-- R188: the procedure's candidates are equal or adjacent, and over the valid prices they stay inside
the ranges the rule names. -/
def Obligations.CandidateTicksAdjacent : Prop :=
  (∀ p : Nat, tickHigh p = tickLow p ∨ tickHigh p = tickLow p + 1) ∧
  (∀ p : Nat, 4295048016 ≤ p → p < 79226673521066979257578248091 →
    -443637 ≤ tickLow p ∧ -443636 ≤ tickHigh p ∧ tickHigh p ≤ 443636) ∧
  tickLow 4295048016 = -443637 ∧ tickHigh 4295048016 = -443636

/-! ## Ticks and the bitmap (43_bitmap.md) -/

/-- R211: every 20-bit immediate is loaded, in the tick domain or not. -/
def Obligations.TliLoadsAnyImmediate : Prop :=
  ∀ (s : State) (rd : TReg) (imm : Int), -524288 ≤ imm → imm ≤ 524287 →
    encode (.tli rd imm) = 0x58000000#32 ||| regField rd 20 ||| (BitVec.ofInt 20 imm).setWidth 32 ∧
    ∃ t, exec (.tli rd imm) s = .next t ∧ RetiresTick rd imm s.flags s t

/-- R220: the greatest multiple of the span at or below the tick, which is a valid start index; a value
outside the tick domain raises `InvalidTick` (code 4). -/
def Obligations.TasRoundsDownOrRaises : Prop :=
  ∀ (s : State) (rd ra : TReg),
    encode (.tas rd ra) = 0x5C000000#32 ||| regField rd 20 ||| regField ra 16 ∧
    (Geometry s.cfg → SpanFits s.cfg → 1 ≤ s.tspace.toNat →
      -443636 ≤ s.readT ra → s.readT ra ≤ 443636 →
      ∃ t x, exec (.tas rd ra) s = .next t ∧ RetiresTick rd x s.flags s t ∧
        s.span ∣ x ∧ x ≤ s.readT ra ∧ s.readT ra < x + s.span ∧ s.validStart x) ∧
    (s.readT ra < -443636 ∨ 443636 < s.readT ra →
      ∃ t, exec (.tas rd ra) s = .next t ∧
        RaisesOnly .invalidTick (encode (.tas rd ra)) s t ∧ t.cause = 4)

/-- R222, R223: at a valid start index the one bit of its slot is set or cleared, the word's other bits
and every other byte of the memories kept; any other value raises `InvalidStartIndex` (code 6). -/
def Obligations.BmsetAndBmclrWriteOneBit : Prop :=
  ∀ (s : State) (ra : TReg) (b : Bool) (m : CommandWord) (i : Instr),
    (b, m, i) ∈ [(true, 0x60000000#32, Instr.bmset ra), (false, 0x64000000#32, .bmclr ra)] →
    encode i = m ||| regField ra 16 ∧
    (s.mem.wf → s.validStart (s.readT ra) →
      ∃ t w, exec i s = .next t ∧ RetiresWord (s.slotOffset (slotOf s.span (s.readT ra))) w s t ∧
        ∀ n, n < 64 → w.getLsbD n =
          if n = (slotAddress s.cfg (slotOf s.span (s.readT ra))).bit then b
          else (s.mem.readWord (s.slotOffset (slotOf s.span (s.readT ra)))).getLsbD n) ∧
    (¬ s.validStart (s.readT ra) →
      ∃ t, exec i s = .next t ∧ RaisesOnly .invalidStartIndex (encode i) s t ∧ t.cause = 6)

/-- R218: different slots of the domain have different bits, and a bit read after a bit write is the
bit written or the old one. -/
def Obligations.OneBitPerSlot : Prop :=
  ∀ (s : State) (k k' : Int) (b : Bool), Geometry s.cfg → 1 ≤ s.tspace.toNat → s.mem.wf →
    s.kmin ≤ k → k ≤ s.kmax → s.kmin ≤ k' → k' ≤ s.kmax →
    (slotAddress s.cfg k = slotAddress s.cfg k' → k = k') ∧
    (s.bitWrite k' b).bitRead k = if k = k' then b else s.bitRead k

/-- R224: `F` is the slot's bit and nothing else changes; a value that is no valid start index raises
`InvalidStartIndex` (code 6). -/
def Obligations.BmtstReadsItsBit : Prop :=
  ∀ (s : State) (ra : TReg),
    encode (.bmtst ra) = 0x68000000#32 ||| regField ra 16 ∧
    (s.validStart (s.readT ra) → ∃ t, exec (.bmtst ra) s = .next t ∧
      RetiresFlags { s.flags with f := s.bitRead (slotOf s.span (s.readT ra)) } s t) ∧
    (¬ s.validStart (s.readT ra) → ∃ t, exec (.bmtst ra) s = .next t ∧
      RaisesOnly .invalidStartIndex (encode (.bmtst ra)) s t ∧ t.cause = 6)

/-- R225, all four forms: the nearest candidate's start index and `F = 1`; `F = 0` and `t[rd]` unchanged
when there is no candidate; `InvalidStartIndex` (code 6) from a value that is no valid start index. -/
def Obligations.BmnextFindsTheNearest : Prop :=
  ∀ (s : State) (rd ra : TReg) (dir : Direction) (incl : Bool),
    encode (.bmnext rd ra dir incl) = 0x6C000000#32 ||| regField rd 20 ||| regField ra 16 |||
      (match dir with
        | .up => 1#32
        | .down => 0#32) ||| (if incl then 2#32 else 0#32) ∧
    (∀ k, Geometry s.cfg → SpanFits s.cfg → 1 ≤ s.tspace.toNat → s.validStart (s.readT ra) →
      s.candidate dir incl (slotOf s.span (s.readT ra)) k →
      (∀ k', s.candidate dir incl (slotOf s.span (s.readT ra)) k' → nearer dir k k') →
      ∃ t, exec (.bmnext rd ra dir incl) s = .next t ∧
        RetiresTick rd (k * s.span) { s.flags with f := true } s t) ∧
    (s.validStart (s.readT ra) →
      (∀ k, ¬ s.candidate dir incl (slotOf s.span (s.readT ra)) k) →
      ∃ t, exec (.bmnext rd ra dir incl) s = .next t ∧
        RetiresFlags { s.flags with f := false } s t) ∧
    (¬ s.validStart (s.readT ra) →
      ∃ t, exec (.bmnext rd ra dir incl) s = .next t ∧
        RaisesOnly .invalidStartIndex (encode (.bmnext rd ra dir incl)) s t ∧ t.cause = 6)

/-- R226: `BADDR` holds the slot's region, block, word and bit in their fields, its bits 7:6 zero, and
nothing else changes; `InvalidStartIndex` (code 6) otherwise. -/
def Obligations.BmaddrPacksTheAddress : Prop :=
  ∀ (s : State) (ra : TReg),
    encode (.bmaddr ra) = 0x70000000#32 ||| regField ra 16 ∧
    (Geometry s.cfg → 1 ≤ s.tspace.toNat → s.validStart (s.readT ra) → ∃ t, exec (.bmaddr ra) s = .next t ∧
      (t.baddr.extractLsb' 0 6).toNat = (slotAddress s.cfg (slotOf s.span (s.readT ra))).bit ∧
      (t.baddr.extractLsb' 6 2).toNat = 0 ∧
      (t.baddr.extractLsb' 8 8).toNat = (slotAddress s.cfg (slotOf s.span (s.readT ra))).word ∧
      (t.baddr.extractLsb' 16 8).toNat = (slotAddress s.cfg (slotOf s.span (s.readT ra))).block ∧
      (t.baddr.extractLsb' 24 2).toNat =
        (match (slotAddress s.cfg (slotOf s.span (s.readT ra))).region with
          | .prim => 0
          | .extp => 1
          | .extn => 2) ∧
      KeepsTicks s t ∧ KeepsWide s t ∧ KeepsMem s t ∧ KeepsControl s t ∧ t.flags = s.flags ∧
      t.pc = s.pc + 1) ∧
    (¬ s.validStart (s.readT ra) → ∃ t, exec (.bmaddr ra) s = .next t ∧
      RaisesOnly .invalidStartIndex (encode (.bmaddr ra)) s t ∧ t.cause = 6)

/-- R219: the linear index of a slot of the domain is a position of the bit string, and the bit there is
the slot's bit. -/
def Obligations.LinearViewShowsEverySlot : Prop :=
  ∀ (s : State) (k : Int), Geometry s.cfg → 1 ≤ s.tspace.toNat → s.kmin ≤ k → k ≤ s.kmax →
    linIndex s.cfg k < s.cfg.totalBits ∧ s.bitRead k = s.linBit (linIndex s.cfg k)

/-- R227: the word scan over the linear view computes the search of R225. -/
def Obligations.WordScanComputesTheSearch : Prop :=
  ∀ (s : State) (dir : Direction) (incl : Bool) (k0 : Int), Geometry s.cfg → 1 ≤ s.tspace.toNat →
    s.kmin ≤ k0 → k0 ≤ s.kmax → s.scan dir incl k0 = s.search dir incl k0

/-- R228: with no other bit of the domain set, `BMSET` at `t[ra]` makes exactly the searches on whose
side it lies find it; after `BMCLR` at it no search finds anything. -/
def Obligations.SetThenFoundClearedThenNot : Prop :=
  ∀ (s : State) (rd ra rb : TReg) (dir : Direction) (incl : Bool),
    Geometry s.cfg → 1 ≤ s.tspace.toNat → s.mem.wf →
    (∀ k, s.kmin ≤ k → k ≤ s.kmax → s.bitRead k = false) →
    s.validStart (s.readT ra) → s.validStart (s.readT rb) →
    ∃ t u, exec (.bmset ra) s = .next t ∧ exec (.bmnext rd rb dir incl) t = .next u ∧
      (s.readT rb < s.readT ra ∧ dir = .up ∨ s.readT ra < s.readT rb ∧ dir = .down ∨
          s.readT ra = s.readT rb ∧ incl = true →
        u.flags.f = true ∧ u.readT rd = s.readT ra) ∧
      (¬ (s.readT rb < s.readT ra ∧ dir = .up ∨ s.readT ra < s.readT rb ∧ dir = .down ∨
          s.readT ra = s.readT rb ∧ incl = true) →
        u.flags.f = false ∧ u.readT rd = s.readT rd) ∧
      ∃ v w, exec (.bmclr ra) t = .next v ∧ exec (.bmnext rd rb dir incl) v = .next w ∧
        w.flags.f = false ∧ w.readT rd = s.readT rd

/-! ## System (44_system.md) -/

/-- R250: `NOP` retires and writes nothing. -/
def Obligations.NopOnlyAdvancesPc : Prop :=
  encode .nop = 0x04000000#32 ∧
  ∀ s : State, ∃ t, exec .nop s = .next t ∧ t = { s with pc := s.pc + 1 }

/-! ## The machine -/

/-- A command either retires, advancing `PC` by 1 and leaving the fault registers, `TSPACE` and the
model's own fields alone, or raises, with `CAUSE` and `ECMD` written and nothing else. -/
def Obligations.CommandRetiresOrRaises : Prop :=
  ∀ (i : Instr) (s : State), ∃ t, exec i s = .next t ∧
    ((t.pc = s.pc + 1 ∧ KeepsControl s t) ∨ ∃ e, RaisesOnly e (encode i) s t)

/-- R270: when the command word `c` raises, `CAUSE` holds a code 1 to 6, `ECMD` holds `c`, `PC` is kept
and nothing else of the block changes. -/
def Obligations.FaultRecordsThePresentedWord : Prop :=
  ∀ (s t : State) (c : CommandWord) (rest : List HostEvent), s.cause = 0 →
    s.pending = presentCommand c :: rest → step s = .next t → t.cause ≠ 0 →
    t.cause.toNat ≤ 6 ∧ t = { s with pending := rest, answer := none, cause := t.cause, ecmd := c }

/-- R273: the acknowledge clears `CAUSE` and advances `PC` past the faulting command, keeping `ECMD` and
everything else; with no fault pending it does nothing. -/
def Obligations.AcknowledgeReturnsFromFault : Prop :=
  ∀ (s : State) (v : PortWord) (rest : List HostEvent),
    s.pending = presentAcknowledge v :: rest →
    (s.cause ≠ 0 → ∃ t, step s = .next t ∧
      t = { s with pending := rest, answer := none, cause := 0, pc := s.pc + 1 }) ∧
    (s.cause = 0 → ∃ t, step s = .next t ∧ t = { s with pending := rest, answer := none })

/-- R300: what the block's reset leaves, whatever the state was; the configuration and what the host
does next are not the block's state. -/
def Obligations.ResetLeavesTheResetValues : Prop :=
  ∀ (s : State) (rest : List HostEvent), s.pending = .reset :: rest →
    ∃ t, step s = .next t ∧ (∀ r, t.readT r = 0) ∧ (∀ f r, t.readWide f r = 0) ∧ t.pc = 0 ∧
      t.flags.toBits = 0 ∧ t.cause = 0 ∧ t.ecmd = 0 ∧ t.baddr = 0 ∧ t.tspace = 1 ∧
      (∀ a, t.mem.readWord a = 0) ∧ t.cfg = s.cfg ∧ t.pending = rest

/-- The invariant holds right after reset (the reference configuration is the model's choice, log 2). -/
def Obligations.ResetMeetsTheInvariant : Prop := State.reset.Inv

/-- Every step from a state that meets the invariant, reachable or not, leaves a state that meets it. -/
def Obligations.StepKeepsTheInvariant : Prop :=
  ∀ s t : State, s.Inv → step s = .next t → t.Inv

/-- No step changes the configuration (the field is the model's own, log 2), and no command changes
`TSPACE`: only a host write at 0x0028 or the reset does. -/
def Obligations.OnlyTheHostSetsTheSpacing : Prop :=
  ∀ s t : State, step s = .next t → t.cfg = s.cfg ∧
    (t.tspace = s.tspace ∨ ∃ rest, (∃ v, s.pending = .write 0x0028 8 v :: rest) ∨
      s.pending = .reset :: rest)

/-- R20: what a command writes depends on the registers, the memories and `TSPACE` only, not on
`FLAGS`, `PC`, `CAUSE`, `ECMD` or `BADDR`. From two states that agree on the former, the same command
leaves equal registers and memories; each flag and `BADDR` is kept by both runs or written with one
value by both (R27); both raise, with one `CAUSE` and one `ECMD`, or both retire and keep these. -/
def Obligations.ResultsDependOnOperandsOnly : Prop :=
  ∀ (i : Instr) (s s' : State), s.t = s'.t → s.d = s'.d → s.q = s'.q → s.o = s'.o →
    s.tspace = s'.tspace → s.mem = s'.mem → s.cfg = s'.cfg →
    ∃ t t', exec i s = .next t ∧ exec i s' = .next t' ∧ t.t = t'.t ∧ t.d = t'.d ∧ t.q = t'.q ∧
      t.o = t'.o ∧ t.mem = t'.mem ∧
      KeptOrSame s.flags.f s'.flags.f t.flags.f t'.flags.f ∧
      KeptOrSame s.flags.c s'.flags.c t.flags.c t'.flags.c ∧
      KeptOrSame s.flags.z s'.flags.z t.flags.z t'.flags.z ∧
      KeptOrSame s.flags.l s'.flags.l t.flags.l t'.flags.l ∧
      KeptOrSame s.baddr s'.baddr t.baddr t'.baddr ∧
      (t.pc = s.pc ∧ t'.pc = s'.pc ∧ t.cause = t'.cause ∧ t.cause ≠ 0 ∧ t.ecmd = t'.ecmd ∨
        t.pc = s.pc + 1 ∧ t'.pc = s'.pc + 1 ∧ t.cause = s.cause ∧ t'.cause = s'.cause ∧
          t.ecmd = s.ecmd ∧ t'.ecmd = s'.ecmd)

/-! ## Runs (44_system.md) -/

/-- R254, R255: a run of the words of `prog` is over after as many steps as there are words, and it has
ended normally, every word retired, or halted, at the faulting word with the rest as the retired words
left it. -/
def Obligations.RunEndsNormallyOrHalted : Prop :=
  ∀ (prog : List CommandWord) (s : State), prog.length < 2 ^ 64 → s.startsRun prog →
    ((runFor prog.length s).endedNormally prog.length ∨
      (runFor prog.length s).endedHalted s prog) ∧
    ∀ n, runFor (prog.length + n) s = runFor prog.length s

/-- R252: a fixed list is the special case of a host that does not look: presenting `prog[PC]` at each
step runs the block as presenting the list does (the model's list of accesses to come apart, log 1). -/
def Obligations.FixedListIsAHostThatDoesNotLook : Prop :=
  ∀ (prog : List CommandWord) (s : State) (n : Nat), prog.length < 2 ^ 64 → s.startsRun prog →
    (hostRunFor (listHost prog) n s).observed = (runFor n s).observed

/-! ## The host port (20_memory.md) -/

/-- R63: every entry of the address map, and nothing else is mapped. -/
def Obligations.PortMapIsTheTable : Prop :=
  ∀ c : Config, Geometry c →
    [0x00, 0x08, 0x10, 0x18, 0x20, 0x28, 0x30, 0x38].map (portTarget c) =
      [some .cmd, some .flags, some .cause, some .ecmd, some .pc, some .tspace, some .baddr,
        some .trapack] ∧
    (∀ r : Reg, portTarget c (0x100 + 8 * r.val) = some (.tick r)) ∧
    (∀ (r : Reg) (j : Nat), j < 2 → portTarget c (0x200 + 16 * r.val + 8 * j) = some (.limb .d r j)) ∧
    (∀ (r : Reg) (j : Nat), j < 4 → portTarget c (0x400 + 32 * r.val + 8 * j) = some (.limb .q r j)) ∧
    (∀ (r : Reg) (j : Nat), j < 8 → portTarget c (0x800 + 64 * r.val + 8 * j) = some (.limb .o r j)) ∧
    (∀ w, w < c.primWords → portTarget c (0x1000 + 8 * w) = some (.bitmapWord (0x1000 + 8 * w))) ∧
    (∀ b w, b < c.extBlocks → w < c.extBlockWords → ∀ base ∈ [0x2000, 0x4000],
      portTarget c (base + 8 * (b * c.extBlockWords + w)) =
        some (.bitmapWord (base + 8 * (b * c.extBlockWords + w)))) ∧
    (∀ a, portTarget c a ≠ none → a < 0x40 ∨ (0x100 ≤ a ∧ a < 0x140) ∨ (0x200 ≤ a ∧ a < 0x280) ∨
      (0x400 ≤ a ∧ a < 0x500) ∨ (0x800 ≤ a ∧ a < 0xA00) ∨
      (0x1000 ≤ a ∧ a < 0x1000 + 8 * c.primWords) ∨
      (0x2000 ≤ a ∧ a < 0x2000 + 8 * (c.extBlocks * c.extBlockWords)) ∨
      (0x4000 ≤ a ∧ a < 0x4000 + 8 * (c.extBlocks * c.extBlockWords)))

/-- R65: an accepted read leaves the block's state as it is (only the model's list and port answer
move), and the same read answers the same again. -/
def Obligations.HostReadHasNoSideEffect : Prop :=
  ∀ (s : State) (a : Nat) (rest : List HostEvent), s.pending = .read a 8 :: rest → a % 8 = 0 →
    portTarget s.cfg a ≠ none →
    ∃ v, step s = .next { s with pending := rest, answer := some v } ∧
      ∀ rest', step { s with pending := .read a 8 :: rest', answer := some v } =
        .next { s with pending := rest', answer := some v }

/-- R28 to R31, R34, R35: what the control registers' offsets read as; reserved bits and write-only
offsets read as zero. -/
def Obligations.ControlRegistersAsRead : Prop :=
  ∀ (s : State) (a : Nat) (n : Nat) (rest : List HostEvent), s.pending = .read a 8 :: rest →
    (a, n) ∈ [(0x00, 0),
      (0x08, s.flags.f.toNat + 2 * s.flags.c.toNat + 4 * s.flags.z.toNat + 8 * s.flags.l.toNat),
      (0x10, s.cause.toNat), (0x18, s.ecmd.toNat), (0x20, s.pc.toNat), (0x28, s.tspace.toNat),
      (0x30, s.baddr.toNat), (0x38, 0)] →
    ∃ t v, step s = .next t ∧ t.answer = some v ∧ v.toNat = n

/-- R67: a host write of a tick register stores bits 31:0 and ignores the rest; a read returns the
32-bit pattern, not sign-extended. -/
def Obligations.TickRegisterAtThePort : Prop :=
  ∀ (s : State) (r : TReg) (v : PortWord) (rest : List HostEvent),
    (s.pending = .write (0x100 + 8 * r.val) 8 v :: rest →
      ∃ t, step s = .next t ∧ t.readT r = (BitVec.ofNat 32 (v.toNat % 2 ^ 32)).toInt ∧
        KeepsTicksBut r s t ∧ { t with t := s.t } = { s with pending := rest, answer := none }) ∧
    (s.pending = .read (0x100 + 8 * r.val) 8 :: rest →
      ∃ t x, step s = .next t ∧ t.answer = some x ∧ x.toNat = (s.readT r % 2 ^ 32).toNat)

/-- R68: a host write of limb `j` replaces that limb, bits `64j+63 : 64j`, and no other limb or
register; a read returns the limb. -/
def Obligations.LimbAtThePort : Prop :=
  ∀ (s : State) (f : WideFile) (base : Nat) (r : Reg) (j : Nat) (v : PortWord)
    (rest : List HostEvent), (f, base) ∈ [(WideFile.d, 0x200), (.q, 0x400), (.o, 0x800)] →
    j < f.limbs →
    (s.pending = .write (base + 8 * (f.limbs * r.val + j)) 8 v :: rest →
      ∃ t, step s = .next t ∧
        (∀ j', j' < f.limbs → t.readWide f r / 2 ^ (64 * j') % 2 ^ 64 =
          if j' = j then v.toNat else s.readWide f r / 2 ^ (64 * j') % 2 ^ 64) ∧
        KeepsWideBut f r s t ∧
        { t with d := s.d, q := s.q, o := s.o } = { s with pending := rest, answer := none }) ∧
    (s.pending = .read (base + 8 * (f.limbs * r.val + j)) 8 :: rest →
      ∃ t x, step s = .next t ∧ t.answer = some x ∧
        x.toNat = s.readWide f r / 2 ^ (64 * j) % 2 ^ 64)

/-- R32: a host write of `TSPACE` stores bits 15:0, ignores bits 63:16, and is ignored whole when bits
15:0 are zero. -/
def Obligations.ZeroSpacingIsIgnored : Prop :=
  ∀ (s : State) (v : PortWord) (rest : List HostEvent), s.pending = .write 0x0028 8 v :: rest →
    ∃ t, step s = .next t ∧
      t.tspace.toNat = (if v.toNat % 2 ^ 16 = 0 then s.tspace.toNat else v.toNat % 2 ^ 16) ∧
      { t with tspace := s.tspace } = { s with pending := rest, answer := none }

/-- R63: a host write of a read-only offset is accepted and changes nothing. -/
def Obligations.ReadOnlyWritesAreIgnored : Prop :=
  ∀ (s : State) (a : Nat) (v : PortWord) (rest : List HostEvent),
    a ∈ [0x08, 0x10, 0x18, 0x20, 0x30] → s.pending = .write a 8 v :: rest →
    ∃ t, step s = .next t ∧ t = { s with pending := rest, answer := none }

/-- R69: a host write of a bitmap word stores any pattern there and changes no other byte and nothing
else; a read returns the word as stored. -/
def Obligations.BitmapWordAtThePort : Prop :=
  ∀ (s : State) (a : Nat) (v : PortWord) (rest : List HostEvent), Geometry s.cfg → s.mem.wf →
    a % 8 = 0 → bitmapMapped s.cfg a = true →
    (s.pending = .write a 8 v :: rest →
      ∃ t, step s = .next t ∧ t.mem.readWord a = v ∧ KeepsMemBut a s t ∧
        { t with mem := s.mem } = { s with pending := rest, answer := none }) ∧
    (s.pending = .read a 8 :: rest →
      step s = .next { s with pending := rest, answer := some (s.mem.readWord a) })
end

