-- ==== Sys2Proof/Laws/Memory.lean ====
section
/-! SUPPORT. Laws/Memory.lean: the bitmap memory: a read after a write, and that every memory operation
keeps the canonical form and stays inside the addresses it is given. -/

namespace Sys2Proof.Machine

/-! ## Bytes -/

/-- A byte read from a cons, spelled out once. -/
theorem byteAt_cons (b : Nat) (w : Byte) (m : Memory) (a : Nat) :
    Memory.byteAt ((b, w) :: m) a = if a = b then w else Memory.byteAt m a := rfl

/-- An address no entry lists reads as an unlisted one. -/
theorem byteAt_of_not_listed (m : Memory) (a : Nat) (h : ∀ x ∈ m, x.1 ≠ a) :
    m.byteAt a = unlistedByte := by
  induction m with
  | nil => rfl
  | cons x m ih =>
    rw [byteAt_cons, if_neg (fun e => h x (by simp) e.symm)]
    exact ih fun y hy => h y (by simp [hy])

/-- The addresses of a canonical tail lie above its head. -/
theorem wf_tail_above {b : Nat} {w : Byte} {m : Memory} (h : Memory.wf ((b, w) :: m)) :
    ∀ x ∈ m, b < x.1 := fun _ hx => List.rel_of_pairwise_cons h.1 hx

/-- The tail of a canonical memory is canonical. -/
theorem wf_tail {x : Host.Cell} {m : Memory} (h : Memory.wf (x :: m)) : Memory.wf m :=
  ⟨List.Pairwise.of_cons h.1, fun y hy => h.2 y (by simp [hy])⟩

/-- A byte put in front of higher addresses reads back, and no other byte changes. -/
theorem byteAt_consByte (m : Memory) (a : Nat) (v : Byte) (c : Nat) (h : ∀ x ∈ m, a < x.1) :
    (Memory.consByte a v m).byteAt c = if c = a then v else m.byteAt c := by
  unfold Memory.consByte
  split
  · next hv =>
    split
    · next hc => rw [hv, hc, byteAt_of_not_listed m a fun x hx => by have := h x hx; omega]
    · rfl
  · rfl

/-- Putting a byte in front of higher addresses keeps the canonical form. -/
theorem consByte_wf {m : Memory} (hm : m.wf) (a : Nat) (v : Byte) (h : ∀ x ∈ m, a < x.1) :
    (Memory.consByte a v m).wf := by
  unfold Memory.consByte
  split
  · exact hm
  · next hv =>
    refine ⟨List.pairwise_cons.2 ⟨fun x hx => h x hx, hm.1⟩, fun x hx => ?_⟩
    rcases List.mem_cons.1 hx with rfl | hx
    · exact hv
    · exact hm.2 x hx

/-- A byte put in front adds at most its own address. -/
theorem consByte_addresses (a : Nat) (v : Byte) (m : Memory) :
    ∀ x ∈ Memory.consByte a v m, x.1 = a ∨ x ∈ m := by
  unfold Memory.consByte
  split
  · exact fun x hx => .inr hx
  · intro x hx
    rcases List.mem_cons.1 hx with rfl | hx
    · exact .inl rfl
    · exact .inr hx

/-- A byte write adds at most its own address. -/
theorem writeByte_addresses (m : Memory) (a : Nat) (v : Byte) :
    ∀ x ∈ m.writeByte a v, x.1 = a ∨ x ∈ m := by
  induction m with
  | nil => exact consByte_addresses a v []
  | cons y m ih =>
    intro x hx
    unfold Memory.writeByte at hx
    split at hx
    · exact consByte_addresses a v _ x hx
    · split at hx
      · exact (consByte_addresses a v m x hx).imp_right fun h => by simp [h]
      · rcases List.mem_cons.1 hx with rfl | hx
        · exact .inr (by simp)
        · exact (ih x hx).imp_right fun h => by simp [h]

/-- A byte write keeps the canonical form. -/
theorem writeByte_wf {m : Memory} (hm : m.wf) (a : Nat) (v : Byte) : (m.writeByte a v).wf := by
  induction m with
  | nil => exact consByte_wf hm a v (by simp)
  | cons y m ih =>
    have hab := wf_tail_above (b := y.1) (w := y.2) hm
    unfold Memory.writeByte
    split
    · next h =>
      refine consByte_wf hm a v fun x hx => ?_
      rcases List.mem_cons.1 hx with rfl | hx
      · exact h
      · have := hab x hx; omega
    · split
      · next h => exact consByte_wf (wf_tail hm) a v fun x hx => by have := hab x hx; omega
      · next h1 h2 =>
        refine ⟨List.pairwise_cons.2 ⟨fun x hx => ?_, (ih (wf_tail hm)).1⟩, fun x hx => ?_⟩
        · rcases writeByte_addresses m a v x hx with h | h
          · show y.1 < x.1
            omega
          · exact hab x h
        · rcases List.mem_cons.1 hx with rfl | hx
          · exact hm.2 y (by simp)
          · exact (ih (wf_tail hm)).2 x hx

/-- A byte reads back after it is written, and every other byte is left alone. -/
theorem byteAt_writeByte {m : Memory} (hm : m.wf) (a : Nat) (v : Byte) (c : Nat) :
    (m.writeByte a v).byteAt c = if c = a then v else m.byteAt c := by
  induction m with
  | nil => exact byteAt_consByte [] a v c (by simp)
  | cons y m ih =>
    have hab := wf_tail_above (b := y.1) (w := y.2) hm
    unfold Memory.writeByte
    split
    · next h =>
      refine byteAt_consByte _ a v c fun x hx => ?_
      rcases List.mem_cons.1 hx with rfl | hx
      · exact h
      · have := hab x hx; omega
    · split
      · next h =>
        rw [byteAt_consByte m a v c fun x hx => by have := hab x hx; omega, byteAt_cons, h]
        split <;> rfl
      · next h1 h2 =>
        rw [byteAt_cons, byteAt_cons, ih (wf_tail hm)]
        split
        · next h => rw [if_neg (by omega)]
        · rfl

/-! ## Several bytes -/

/-- A little-endian store keeps the canonical form. -/
theorem writeLE_wf {m : Memory} (hm : m.wf) (a v n : Nat) : (m.writeLE a v n).wf := by
  induction n generalizing m a v with
  | zero => exact hm
  | succ n ih => exact ih (writeByte_wf hm a _) _ _

/-- A little-endian store adds at most the addresses it stores to. -/
theorem writeLE_addresses (m : Memory) (a v n : Nat) :
    ∀ x ∈ m.writeLE a v n, (a ≤ x.1 ∧ x.1 < a + n) ∨ x ∈ m := by
  induction n generalizing m a v with
  | zero => exact fun x hx => .inr hx
  | succ n ih =>
    intro x hx
    rcases ih _ _ _ x hx with h | h
    · exact .inl (by omega)
    · rcases writeByte_addresses m a _ x h with h | h
      · exact .inl (by omega)
      · exact .inr h

/-- A byte outside the bytes stored reads as before. -/
theorem byteAt_writeLE_other {m : Memory} (hm : m.wf) (a v n c : Nat) (h : ¬ (a ≤ c ∧ c < a + n)) :
    (m.writeLE a v n).byteAt c = m.byteAt c := by
  induction n generalizing m a v with
  | zero => rfl
  | succ n ih =>
    show (Memory.writeLE _ _ _ n).byteAt c = _
    rw [ih (writeByte_wf hm a _) _ _ (by omega), byteAt_writeByte hm, if_neg (by omega)]

/-- Bytes that agree give the same little-endian integer. -/
theorem readLE_congr {m m' : Memory} (a n : Nat)
    (h : ∀ c, a ≤ c → c < a + n → m'.byteAt c = m.byteAt c) : m'.readLE a n = m.readLE a n := by
  induction n generalizing a with
  | zero => rfl
  | succ n ih =>
    show (m'.byteAt a).toNat + 256 * m'.readLE (a + 1) n = _
    rw [h a (by omega) (by omega), ih (a + 1) fun c h1 h2 => h c (by omega) (by omega)]
    rfl

/-- A little-endian store reads back. -/
theorem readLE_writeLE {m : Memory} (hm : m.wf) (a v n : Nat) :
    (m.writeLE a v n).readLE a n = v % 256 ^ n := by
  induction n generalizing m a v with
  | zero => simp [Memory.readLE, Nat.mod_one]
  | succ n ih =>
    show (Memory.byteAt (Memory.writeLE _ _ _ n) a).toNat + 256 * Memory.readLE _ (a + 1) n = _
    have hw := writeByte_wf hm a (BitVec.ofNat 8 v)
    show ((Memory.writeLE (m.writeByte a (BitVec.ofNat 8 v)) (a + 1) (v / 256) n).byteAt a).toNat +
      256 * (Memory.writeLE (m.writeByte a (BitVec.ofNat 8 v)) (a + 1) (v / 256) n).readLE (a + 1) n = _
    rw [ih hw, byteAt_writeLE_other hw _ _ _ _ (by omega), byteAt_writeByte hm, if_pos rfl,
      BitVec.toNat_ofNat, pow_succ' 256 n, Nat.mod_mul (x := v), show (2 : Nat) ^ 8 = 256 by norm_num]

/-! ## Words -/

/-- A word write keeps the canonical form. -/
theorem writeWord_wf {m : Memory} (hm : m.wf) (a : Nat) (v : PortWord) : (m.writeWord a v).wf :=
  writeLE_wf hm a _ 8

/-- A word write adds at most the eight addresses of the word. -/
theorem writeWord_addresses (m : Memory) (a : Nat) (v : PortWord) :
    ∀ x ∈ m.writeWord a v, (a ≤ x.1 ∧ x.1 < a + 8) ∨ x ∈ m := writeLE_addresses m a _ 8

/-- A byte outside the word written reads as before. -/
theorem byteAt_writeWord_other {m : Memory} (hm : m.wf) (a : Nat) (v : PortWord) (c : Nat)
    (h : ¬ (a ≤ c ∧ c < a + 8)) : (m.writeWord a v).byteAt c = m.byteAt c :=
  byteAt_writeLE_other hm a _ 8 c h

/-- A word reads back after it is written. -/
theorem readWord_writeWord_same {m : Memory} (hm : m.wf) (a : Nat) (v : PortWord) :
    (m.writeWord a v).readWord a = v := by
  apply BitVec.eq_of_toNat_eq
  simp only [Memory.readWord, Memory.writeWord, readLE_writeLE hm, BitVec.toNat_ofNat]
  have := v.isLt
  rw [show (256 : Nat) ^ 8 = 2 ^ 64 by norm_num, Nat.mod_mod, Nat.mod_eq_of_lt this]

/-- A word that shares no byte with the word written reads as before. -/
theorem readWord_writeWord_other {m : Memory} (hm : m.wf) (a b : Nat) (v : PortWord)
    (h : b + 8 ≤ a ∨ a + 8 ≤ b) : (m.writeWord a v).readWord b = m.readWord b := by
  unfold Memory.readWord
  rw [readLE_congr b 8 fun c h1 h2 => byteAt_writeWord_other hm a v c (by omega)]

/-! ## Bits of a word -/

/-- The bit written reads back and every other bit of the word is kept (43_bitmap.md R217). -/
theorem getLsbD_setWordBit (w : PortWord) (n : Nat) (b : Bool) (i : Nat) (hn : n < 64) :
    (setWordBit w n b).getLsbD i = if i = n then b else w.getLsbD i := by
  unfold setWordBit
  by_cases hi : i < 64
  · by_cases h : i = n
    · subst h
      cases b <;> simp [hn]
    · cases b <;> simp [h, hi]
  · rw [BitVec.getLsbD_of_ge w i (by omega), BitVec.getLsbD_of_ge _ i (by omega), if_neg (by omega)]

end Sys2Proof.Machine
end

