-- ==== Sys2Proof/Laws/State.lean ====
section
/-! SUPPORT. Laws/State.lean: one lemma per field per state update, and what a register reads after a
register write, so that no proof unfolds a record update. -/

namespace Sys2Proof.Machine

/-! ## `writeT` -/

@[simp] theorem writeT_t (s : State) (r : TReg) (v : Int) : (s.writeT r v).t = s.t.set r.val (BitVec.ofInt 32 v) r.isLt := rfl
@[simp] theorem writeT_d (s : State) (r : TReg) (v : Int) : (s.writeT r v).d = s.d := rfl
@[simp] theorem writeT_q (s : State) (r : TReg) (v : Int) : (s.writeT r v).q = s.q := rfl
@[simp] theorem writeT_o (s : State) (r : TReg) (v : Int) : (s.writeT r v).o = s.o := rfl
@[simp] theorem writeT_pc (s : State) (r : TReg) (v : Int) : (s.writeT r v).pc = s.pc := rfl
@[simp] theorem writeT_flags (s : State) (r : TReg) (v : Int) : (s.writeT r v).flags = s.flags := rfl
@[simp] theorem writeT_cause (s : State) (r : TReg) (v : Int) : (s.writeT r v).cause = s.cause := rfl
@[simp] theorem writeT_ecmd (s : State) (r : TReg) (v : Int) : (s.writeT r v).ecmd = s.ecmd := rfl
@[simp] theorem writeT_tspace (s : State) (r : TReg) (v : Int) : (s.writeT r v).tspace = s.tspace := rfl
@[simp] theorem writeT_baddr (s : State) (r : TReg) (v : Int) : (s.writeT r v).baddr = s.baddr := rfl
@[simp] theorem writeT_mem (s : State) (r : TReg) (v : Int) : (s.writeT r v).mem = s.mem := rfl
@[simp] theorem writeT_cfg (s : State) (r : TReg) (v : Int) : (s.writeT r v).cfg = s.cfg := rfl
@[simp] theorem writeT_pending (s : State) (r : TReg) (v : Int) : (s.writeT r v).pending = s.pending := rfl
@[simp] theorem writeT_answer (s : State) (r : TReg) (v : Int) : (s.writeT r v).answer = s.answer := rfl

/-! ## `writeWide` -/

@[simp] theorem writeWide_t (s : State) (f : WideFile) (r : Reg) (v : Nat) : (s.writeWide f r v).t = s.t :=
  by cases f <;> rfl
@[simp] theorem writeWide_pc (s : State) (f : WideFile) (r : Reg) (v : Nat) : (s.writeWide f r v).pc = s.pc :=
  by cases f <;> rfl
@[simp] theorem writeWide_flags (s : State) (f : WideFile) (r : Reg) (v : Nat) : (s.writeWide f r v).flags = s.flags :=
  by cases f <;> rfl
@[simp] theorem writeWide_cause (s : State) (f : WideFile) (r : Reg) (v : Nat) : (s.writeWide f r v).cause = s.cause :=
  by cases f <;> rfl
@[simp] theorem writeWide_ecmd (s : State) (f : WideFile) (r : Reg) (v : Nat) : (s.writeWide f r v).ecmd = s.ecmd :=
  by cases f <;> rfl
@[simp] theorem writeWide_tspace (s : State) (f : WideFile) (r : Reg) (v : Nat) : (s.writeWide f r v).tspace = s.tspace :=
  by cases f <;> rfl
@[simp] theorem writeWide_baddr (s : State) (f : WideFile) (r : Reg) (v : Nat) : (s.writeWide f r v).baddr = s.baddr :=
  by cases f <;> rfl
@[simp] theorem writeWide_mem (s : State) (f : WideFile) (r : Reg) (v : Nat) : (s.writeWide f r v).mem = s.mem :=
  by cases f <;> rfl
@[simp] theorem writeWide_cfg (s : State) (f : WideFile) (r : Reg) (v : Nat) : (s.writeWide f r v).cfg = s.cfg :=
  by cases f <;> rfl
@[simp] theorem writeWide_pending (s : State) (f : WideFile) (r : Reg) (v : Nat) : (s.writeWide f r v).pending = s.pending :=
  by cases f <;> rfl
@[simp] theorem writeWide_answer (s : State) (f : WideFile) (r : Reg) (v : Nat) : (s.writeWide f r v).answer = s.answer :=
  by cases f <;> rfl

/-! ## `writeBaddr` -/

@[simp] theorem writeBaddr_t (s : State) (v : BitVec 26) : (s.writeBaddr v).t = s.t := rfl
@[simp] theorem writeBaddr_d (s : State) (v : BitVec 26) : (s.writeBaddr v).d = s.d := rfl
@[simp] theorem writeBaddr_q (s : State) (v : BitVec 26) : (s.writeBaddr v).q = s.q := rfl
@[simp] theorem writeBaddr_o (s : State) (v : BitVec 26) : (s.writeBaddr v).o = s.o := rfl
@[simp] theorem writeBaddr_pc (s : State) (v : BitVec 26) : (s.writeBaddr v).pc = s.pc := rfl
@[simp] theorem writeBaddr_flags (s : State) (v : BitVec 26) : (s.writeBaddr v).flags = s.flags := rfl
@[simp] theorem writeBaddr_cause (s : State) (v : BitVec 26) : (s.writeBaddr v).cause = s.cause := rfl
@[simp] theorem writeBaddr_ecmd (s : State) (v : BitVec 26) : (s.writeBaddr v).ecmd = s.ecmd := rfl
@[simp] theorem writeBaddr_tspace (s : State) (v : BitVec 26) : (s.writeBaddr v).tspace = s.tspace := rfl
@[simp] theorem writeBaddr_baddr (s : State) (v : BitVec 26) : (s.writeBaddr v).baddr = v := rfl
@[simp] theorem writeBaddr_mem (s : State) (v : BitVec 26) : (s.writeBaddr v).mem = s.mem := rfl
@[simp] theorem writeBaddr_cfg (s : State) (v : BitVec 26) : (s.writeBaddr v).cfg = s.cfg := rfl
@[simp] theorem writeBaddr_pending (s : State) (v : BitVec 26) : (s.writeBaddr v).pending = s.pending := rfl
@[simp] theorem writeBaddr_answer (s : State) (v : BitVec 26) : (s.writeBaddr v).answer = s.answer := rfl

/-! ## `withMem` -/

@[simp] theorem withMem_t (s : State) (m : Memory) : (s.withMem m).t = s.t := rfl
@[simp] theorem withMem_d (s : State) (m : Memory) : (s.withMem m).d = s.d := rfl
@[simp] theorem withMem_q (s : State) (m : Memory) : (s.withMem m).q = s.q := rfl
@[simp] theorem withMem_o (s : State) (m : Memory) : (s.withMem m).o = s.o := rfl
@[simp] theorem withMem_pc (s : State) (m : Memory) : (s.withMem m).pc = s.pc := rfl
@[simp] theorem withMem_flags (s : State) (m : Memory) : (s.withMem m).flags = s.flags := rfl
@[simp] theorem withMem_cause (s : State) (m : Memory) : (s.withMem m).cause = s.cause := rfl
@[simp] theorem withMem_ecmd (s : State) (m : Memory) : (s.withMem m).ecmd = s.ecmd := rfl
@[simp] theorem withMem_tspace (s : State) (m : Memory) : (s.withMem m).tspace = s.tspace := rfl
@[simp] theorem withMem_baddr (s : State) (m : Memory) : (s.withMem m).baddr = s.baddr := rfl
@[simp] theorem withMem_mem (s : State) (m : Memory) : (s.withMem m).mem = m := rfl
@[simp] theorem withMem_cfg (s : State) (m : Memory) : (s.withMem m).cfg = s.cfg := rfl
@[simp] theorem withMem_pending (s : State) (m : Memory) : (s.withMem m).pending = s.pending := rfl
@[simp] theorem withMem_answer (s : State) (m : Memory) : (s.withMem m).answer = s.answer := rfl

/-! ## `setF` -/

@[simp] theorem setF_t (s : State) (b : Bool) : (s.setF b).t = s.t := rfl
@[simp] theorem setF_d (s : State) (b : Bool) : (s.setF b).d = s.d := rfl
@[simp] theorem setF_q (s : State) (b : Bool) : (s.setF b).q = s.q := rfl
@[simp] theorem setF_o (s : State) (b : Bool) : (s.setF b).o = s.o := rfl
@[simp] theorem setF_pc (s : State) (b : Bool) : (s.setF b).pc = s.pc := rfl
@[simp] theorem setF_flags (s : State) (b : Bool) : (s.setF b).flags = { s.flags with f := b } := rfl
@[simp] theorem setF_cause (s : State) (b : Bool) : (s.setF b).cause = s.cause := rfl
@[simp] theorem setF_ecmd (s : State) (b : Bool) : (s.setF b).ecmd = s.ecmd := rfl
@[simp] theorem setF_tspace (s : State) (b : Bool) : (s.setF b).tspace = s.tspace := rfl
@[simp] theorem setF_baddr (s : State) (b : Bool) : (s.setF b).baddr = s.baddr := rfl
@[simp] theorem setF_mem (s : State) (b : Bool) : (s.setF b).mem = s.mem := rfl
@[simp] theorem setF_cfg (s : State) (b : Bool) : (s.setF b).cfg = s.cfg := rfl
@[simp] theorem setF_pending (s : State) (b : Bool) : (s.setF b).pending = s.pending := rfl
@[simp] theorem setF_answer (s : State) (b : Bool) : (s.setF b).answer = s.answer := rfl

/-! ## `setC` -/

@[simp] theorem setC_t (s : State) (b : Bool) : (s.setC b).t = s.t := rfl
@[simp] theorem setC_d (s : State) (b : Bool) : (s.setC b).d = s.d := rfl
@[simp] theorem setC_q (s : State) (b : Bool) : (s.setC b).q = s.q := rfl
@[simp] theorem setC_o (s : State) (b : Bool) : (s.setC b).o = s.o := rfl
@[simp] theorem setC_pc (s : State) (b : Bool) : (s.setC b).pc = s.pc := rfl
@[simp] theorem setC_flags (s : State) (b : Bool) : (s.setC b).flags = { s.flags with c := b } := rfl
@[simp] theorem setC_cause (s : State) (b : Bool) : (s.setC b).cause = s.cause := rfl
@[simp] theorem setC_ecmd (s : State) (b : Bool) : (s.setC b).ecmd = s.ecmd := rfl
@[simp] theorem setC_tspace (s : State) (b : Bool) : (s.setC b).tspace = s.tspace := rfl
@[simp] theorem setC_baddr (s : State) (b : Bool) : (s.setC b).baddr = s.baddr := rfl
@[simp] theorem setC_mem (s : State) (b : Bool) : (s.setC b).mem = s.mem := rfl
@[simp] theorem setC_cfg (s : State) (b : Bool) : (s.setC b).cfg = s.cfg := rfl
@[simp] theorem setC_pending (s : State) (b : Bool) : (s.setC b).pending = s.pending := rfl
@[simp] theorem setC_answer (s : State) (b : Bool) : (s.setC b).answer = s.answer := rfl

/-! ## `setZL` -/

@[simp] theorem setZL_t (s : State) (z l : Bool) : (s.setZL z l).t = s.t := rfl
@[simp] theorem setZL_d (s : State) (z l : Bool) : (s.setZL z l).d = s.d := rfl
@[simp] theorem setZL_q (s : State) (z l : Bool) : (s.setZL z l).q = s.q := rfl
@[simp] theorem setZL_o (s : State) (z l : Bool) : (s.setZL z l).o = s.o := rfl
@[simp] theorem setZL_pc (s : State) (z l : Bool) : (s.setZL z l).pc = s.pc := rfl
@[simp] theorem setZL_flags (s : State) (z l : Bool) : (s.setZL z l).flags = { s.flags with z := z, l := l } := rfl
@[simp] theorem setZL_cause (s : State) (z l : Bool) : (s.setZL z l).cause = s.cause := rfl
@[simp] theorem setZL_ecmd (s : State) (z l : Bool) : (s.setZL z l).ecmd = s.ecmd := rfl
@[simp] theorem setZL_tspace (s : State) (z l : Bool) : (s.setZL z l).tspace = s.tspace := rfl
@[simp] theorem setZL_baddr (s : State) (z l : Bool) : (s.setZL z l).baddr = s.baddr := rfl
@[simp] theorem setZL_mem (s : State) (z l : Bool) : (s.setZL z l).mem = s.mem := rfl
@[simp] theorem setZL_cfg (s : State) (z l : Bool) : (s.setZL z l).cfg = s.cfg := rfl
@[simp] theorem setZL_pending (s : State) (z l : Bool) : (s.setZL z l).pending = s.pending := rfl
@[simp] theorem setZL_answer (s : State) (z l : Bool) : (s.setZL z l).answer = s.answer := rfl

/-! ## `retire` -/

@[simp] theorem retire_t (s : State) : s.retire.t = s.t := rfl
@[simp] theorem retire_d (s : State) : s.retire.d = s.d := rfl
@[simp] theorem retire_q (s : State) : s.retire.q = s.q := rfl
@[simp] theorem retire_o (s : State) : s.retire.o = s.o := rfl
@[simp] theorem retire_pc (s : State) : s.retire.pc = s.pc + 1 := rfl
@[simp] theorem retire_flags (s : State) : s.retire.flags = s.flags := rfl
@[simp] theorem retire_cause (s : State) : s.retire.cause = s.cause := rfl
@[simp] theorem retire_ecmd (s : State) : s.retire.ecmd = s.ecmd := rfl
@[simp] theorem retire_tspace (s : State) : s.retire.tspace = s.tspace := rfl
@[simp] theorem retire_baddr (s : State) : s.retire.baddr = s.baddr := rfl
@[simp] theorem retire_mem (s : State) : s.retire.mem = s.mem := rfl
@[simp] theorem retire_cfg (s : State) : s.retire.cfg = s.cfg := rfl
@[simp] theorem retire_pending (s : State) : s.retire.pending = s.pending := rfl
@[simp] theorem retire_answer (s : State) : s.retire.answer = s.answer := rfl

/-! ## `raise` -/

@[simp] theorem raise_t (s : State) (e : Cause) (w : CommandWord) : (s.raise e w).t = s.t := rfl
@[simp] theorem raise_d (s : State) (e : Cause) (w : CommandWord) : (s.raise e w).d = s.d := rfl
@[simp] theorem raise_q (s : State) (e : Cause) (w : CommandWord) : (s.raise e w).q = s.q := rfl
@[simp] theorem raise_o (s : State) (e : Cause) (w : CommandWord) : (s.raise e w).o = s.o := rfl
@[simp] theorem raise_pc (s : State) (e : Cause) (w : CommandWord) : (s.raise e w).pc = s.pc := rfl
@[simp] theorem raise_flags (s : State) (e : Cause) (w : CommandWord) : (s.raise e w).flags = s.flags := rfl
@[simp] theorem raise_cause (s : State) (e : Cause) (w : CommandWord) : (s.raise e w).cause = e.code := rfl
@[simp] theorem raise_ecmd (s : State) (e : Cause) (w : CommandWord) : (s.raise e w).ecmd = w := rfl
@[simp] theorem raise_tspace (s : State) (e : Cause) (w : CommandWord) : (s.raise e w).tspace = s.tspace := rfl
@[simp] theorem raise_baddr (s : State) (e : Cause) (w : CommandWord) : (s.raise e w).baddr = s.baddr := rfl
@[simp] theorem raise_mem (s : State) (e : Cause) (w : CommandWord) : (s.raise e w).mem = s.mem := rfl
@[simp] theorem raise_cfg (s : State) (e : Cause) (w : CommandWord) : (s.raise e w).cfg = s.cfg := rfl
@[simp] theorem raise_pending (s : State) (e : Cause) (w : CommandWord) : (s.raise e w).pending = s.pending := rfl
@[simp] theorem raise_answer (s : State) (e : Cause) (w : CommandWord) : (s.raise e w).answer = s.answer := rfl

/-! ## `acknowledge` -/

@[simp] theorem acknowledge_t (s : State) : s.acknowledge.t = s.t :=
  by unfold State.acknowledge; split <;> simp_all
@[simp] theorem acknowledge_d (s : State) : s.acknowledge.d = s.d :=
  by unfold State.acknowledge; split <;> simp_all
@[simp] theorem acknowledge_q (s : State) : s.acknowledge.q = s.q :=
  by unfold State.acknowledge; split <;> simp_all
@[simp] theorem acknowledge_o (s : State) : s.acknowledge.o = s.o :=
  by unfold State.acknowledge; split <;> simp_all
@[simp] theorem acknowledge_pc (s : State) : s.acknowledge.pc = if s.cause = 0 then s.pc else s.pc + 1 :=
  by unfold State.acknowledge; split <;> simp_all
@[simp] theorem acknowledge_flags (s : State) : s.acknowledge.flags = s.flags :=
  by unfold State.acknowledge; split <;> simp_all
@[simp] theorem acknowledge_cause (s : State) : s.acknowledge.cause = 0 :=
  by unfold State.acknowledge; split <;> simp_all
@[simp] theorem acknowledge_ecmd (s : State) : s.acknowledge.ecmd = s.ecmd :=
  by unfold State.acknowledge; split <;> simp_all
@[simp] theorem acknowledge_tspace (s : State) : s.acknowledge.tspace = s.tspace :=
  by unfold State.acknowledge; split <;> simp_all
@[simp] theorem acknowledge_baddr (s : State) : s.acknowledge.baddr = s.baddr :=
  by unfold State.acknowledge; split <;> simp_all
@[simp] theorem acknowledge_mem (s : State) : s.acknowledge.mem = s.mem :=
  by unfold State.acknowledge; split <;> simp_all
@[simp] theorem acknowledge_cfg (s : State) : s.acknowledge.cfg = s.cfg :=
  by unfold State.acknowledge; split <;> simp_all
@[simp] theorem acknowledge_pending (s : State) : s.acknowledge.pending = s.pending :=
  by unfold State.acknowledge; split <;> simp_all
@[simp] theorem acknowledge_answer (s : State) : s.acknowledge.answer = s.answer :=
  by unfold State.acknowledge; split <;> simp_all

/-! ## `bitWrite` -/

@[simp] theorem bitWrite_t (s : State) (k : Int) (b : Bool) : (s.bitWrite k b).t = s.t := rfl
@[simp] theorem bitWrite_d (s : State) (k : Int) (b : Bool) : (s.bitWrite k b).d = s.d := rfl
@[simp] theorem bitWrite_q (s : State) (k : Int) (b : Bool) : (s.bitWrite k b).q = s.q := rfl
@[simp] theorem bitWrite_o (s : State) (k : Int) (b : Bool) : (s.bitWrite k b).o = s.o := rfl
@[simp] theorem bitWrite_pc (s : State) (k : Int) (b : Bool) : (s.bitWrite k b).pc = s.pc := rfl
@[simp] theorem bitWrite_flags (s : State) (k : Int) (b : Bool) : (s.bitWrite k b).flags = s.flags := rfl
@[simp] theorem bitWrite_cause (s : State) (k : Int) (b : Bool) : (s.bitWrite k b).cause = s.cause := rfl
@[simp] theorem bitWrite_ecmd (s : State) (k : Int) (b : Bool) : (s.bitWrite k b).ecmd = s.ecmd := rfl
@[simp] theorem bitWrite_tspace (s : State) (k : Int) (b : Bool) : (s.bitWrite k b).tspace = s.tspace := rfl
@[simp] theorem bitWrite_baddr (s : State) (k : Int) (b : Bool) : (s.bitWrite k b).baddr = s.baddr := rfl
@[simp] theorem bitWrite_mem (s : State) (k : Int) (b : Bool) : (s.bitWrite k b).mem = s.mem.writeWord (s.slotOffset k)
      (setWordBit (s.mem.readWord (s.slotOffset k)) (slotAddress s.cfg k).bit b) := rfl
@[simp] theorem bitWrite_cfg (s : State) (k : Int) (b : Bool) : (s.bitWrite k b).cfg = s.cfg := rfl
@[simp] theorem bitWrite_pending (s : State) (k : Int) (b : Bool) : (s.bitWrite k b).pending = s.pending := rfl
@[simp] theorem bitWrite_answer (s : State) (k : Int) (b : Bool) : (s.bitWrite k b).answer = s.answer := rfl

/-! ## `took` -/

@[simp] theorem took_t (s : State) (rest : List HostEvent) : (s.took rest).t = s.t := rfl
@[simp] theorem took_d (s : State) (rest : List HostEvent) : (s.took rest).d = s.d := rfl
@[simp] theorem took_q (s : State) (rest : List HostEvent) : (s.took rest).q = s.q := rfl
@[simp] theorem took_o (s : State) (rest : List HostEvent) : (s.took rest).o = s.o := rfl
@[simp] theorem took_pc (s : State) (rest : List HostEvent) : (s.took rest).pc = s.pc := rfl
@[simp] theorem took_flags (s : State) (rest : List HostEvent) : (s.took rest).flags = s.flags := rfl
@[simp] theorem took_cause (s : State) (rest : List HostEvent) : (s.took rest).cause = s.cause := rfl
@[simp] theorem took_ecmd (s : State) (rest : List HostEvent) : (s.took rest).ecmd = s.ecmd := rfl
@[simp] theorem took_tspace (s : State) (rest : List HostEvent) : (s.took rest).tspace = s.tspace := rfl
@[simp] theorem took_baddr (s : State) (rest : List HostEvent) : (s.took rest).baddr = s.baddr := rfl
@[simp] theorem took_mem (s : State) (rest : List HostEvent) : (s.took rest).mem = s.mem := rfl
@[simp] theorem took_cfg (s : State) (rest : List HostEvent) : (s.took rest).cfg = s.cfg := rfl
@[simp] theorem took_pending (s : State) (rest : List HostEvent) : (s.took rest).pending = rest := rfl
@[simp] theorem took_answer (s : State) (rest : List HostEvent) : (s.took rest).answer = none := rfl

/-! ## `answered` -/

@[simp] theorem answered_t (s : State) (v : PortWord) : (s.answered v).t = s.t := rfl
@[simp] theorem answered_d (s : State) (v : PortWord) : (s.answered v).d = s.d := rfl
@[simp] theorem answered_q (s : State) (v : PortWord) : (s.answered v).q = s.q := rfl
@[simp] theorem answered_o (s : State) (v : PortWord) : (s.answered v).o = s.o := rfl
@[simp] theorem answered_pc (s : State) (v : PortWord) : (s.answered v).pc = s.pc := rfl
@[simp] theorem answered_flags (s : State) (v : PortWord) : (s.answered v).flags = s.flags := rfl
@[simp] theorem answered_cause (s : State) (v : PortWord) : (s.answered v).cause = s.cause := rfl
@[simp] theorem answered_ecmd (s : State) (v : PortWord) : (s.answered v).ecmd = s.ecmd := rfl
@[simp] theorem answered_tspace (s : State) (v : PortWord) : (s.answered v).tspace = s.tspace := rfl
@[simp] theorem answered_baddr (s : State) (v : PortWord) : (s.answered v).baddr = s.baddr := rfl
@[simp] theorem answered_mem (s : State) (v : PortWord) : (s.answered v).mem = s.mem := rfl
@[simp] theorem answered_cfg (s : State) (v : PortWord) : (s.answered v).cfg = s.cfg := rfl
@[simp] theorem answered_pending (s : State) (v : PortWord) : (s.answered v).pending = s.pending := rfl
@[simp] theorem answered_answer (s : State) (v : PortWord) : (s.answered v).answer = some v := rfl

/-! ## `hostWriteTspace` -/

@[simp] theorem hostWriteTspace_t (s : State) (v : PortWord) : (s.hostWriteTspace v).t = s.t :=
  by unfold State.hostWriteTspace; split <;> rfl
@[simp] theorem hostWriteTspace_d (s : State) (v : PortWord) : (s.hostWriteTspace v).d = s.d :=
  by unfold State.hostWriteTspace; split <;> rfl
@[simp] theorem hostWriteTspace_q (s : State) (v : PortWord) : (s.hostWriteTspace v).q = s.q :=
  by unfold State.hostWriteTspace; split <;> rfl
@[simp] theorem hostWriteTspace_o (s : State) (v : PortWord) : (s.hostWriteTspace v).o = s.o :=
  by unfold State.hostWriteTspace; split <;> rfl
@[simp] theorem hostWriteTspace_pc (s : State) (v : PortWord) : (s.hostWriteTspace v).pc = s.pc :=
  by unfold State.hostWriteTspace; split <;> rfl
@[simp] theorem hostWriteTspace_flags (s : State) (v : PortWord) : (s.hostWriteTspace v).flags = s.flags :=
  by unfold State.hostWriteTspace; split <;> rfl
@[simp] theorem hostWriteTspace_cause (s : State) (v : PortWord) : (s.hostWriteTspace v).cause = s.cause :=
  by unfold State.hostWriteTspace; split <;> rfl
@[simp] theorem hostWriteTspace_ecmd (s : State) (v : PortWord) : (s.hostWriteTspace v).ecmd = s.ecmd :=
  by unfold State.hostWriteTspace; split <;> rfl
@[simp] theorem hostWriteTspace_tspace (s : State) (v : PortWord) : (s.hostWriteTspace v).tspace = if v.setWidth 16 = 0#16 then s.tspace else v.setWidth 16 :=
  by unfold State.hostWriteTspace; split <;> rfl
@[simp] theorem hostWriteTspace_baddr (s : State) (v : PortWord) : (s.hostWriteTspace v).baddr = s.baddr :=
  by unfold State.hostWriteTspace; split <;> rfl
@[simp] theorem hostWriteTspace_mem (s : State) (v : PortWord) : (s.hostWriteTspace v).mem = s.mem :=
  by unfold State.hostWriteTspace; split <;> rfl
@[simp] theorem hostWriteTspace_cfg (s : State) (v : PortWord) : (s.hostWriteTspace v).cfg = s.cfg :=
  by unfold State.hostWriteTspace; split <;> rfl
@[simp] theorem hostWriteTspace_pending (s : State) (v : PortWord) : (s.hostWriteTspace v).pending = s.pending :=
  by unfold State.hostWriteTspace; split <;> rfl
@[simp] theorem hostWriteTspace_answer (s : State) (v : PortWord) : (s.hostWriteTspace v).answer = s.answer :=
  by unfold State.hostWriteTspace; split <;> rfl

/-! ## `hostWriteT` -/

@[simp] theorem hostWriteT_t (s : State) (r : TReg) (v : PortWord) : (s.hostWriteT r v).t = s.t.set r.val (v.setWidth 32) r.isLt := rfl
@[simp] theorem hostWriteT_d (s : State) (r : TReg) (v : PortWord) : (s.hostWriteT r v).d = s.d := rfl
@[simp] theorem hostWriteT_q (s : State) (r : TReg) (v : PortWord) : (s.hostWriteT r v).q = s.q := rfl
@[simp] theorem hostWriteT_o (s : State) (r : TReg) (v : PortWord) : (s.hostWriteT r v).o = s.o := rfl
@[simp] theorem hostWriteT_pc (s : State) (r : TReg) (v : PortWord) : (s.hostWriteT r v).pc = s.pc := rfl
@[simp] theorem hostWriteT_flags (s : State) (r : TReg) (v : PortWord) : (s.hostWriteT r v).flags = s.flags := rfl
@[simp] theorem hostWriteT_cause (s : State) (r : TReg) (v : PortWord) : (s.hostWriteT r v).cause = s.cause := rfl
@[simp] theorem hostWriteT_ecmd (s : State) (r : TReg) (v : PortWord) : (s.hostWriteT r v).ecmd = s.ecmd := rfl
@[simp] theorem hostWriteT_tspace (s : State) (r : TReg) (v : PortWord) : (s.hostWriteT r v).tspace = s.tspace := rfl
@[simp] theorem hostWriteT_baddr (s : State) (r : TReg) (v : PortWord) : (s.hostWriteT r v).baddr = s.baddr := rfl
@[simp] theorem hostWriteT_mem (s : State) (r : TReg) (v : PortWord) : (s.hostWriteT r v).mem = s.mem := rfl
@[simp] theorem hostWriteT_cfg (s : State) (r : TReg) (v : PortWord) : (s.hostWriteT r v).cfg = s.cfg := rfl
@[simp] theorem hostWriteT_pending (s : State) (r : TReg) (v : PortWord) : (s.hostWriteT r v).pending = s.pending := rfl
@[simp] theorem hostWriteT_answer (s : State) (r : TReg) (v : PortWord) : (s.hostWriteT r v).answer = s.answer := rfl

/-! ## `hostWriteLimb` -/

@[simp] theorem hostWriteLimb_t (s : State) (f : WideFile) (r : Reg) (j : Nat) (v : PortWord) : (s.hostWriteLimb f r j v).t = s.t :=
  by cases f <;> rfl
@[simp] theorem hostWriteLimb_pc (s : State) (f : WideFile) (r : Reg) (j : Nat) (v : PortWord) : (s.hostWriteLimb f r j v).pc = s.pc :=
  by cases f <;> rfl
@[simp] theorem hostWriteLimb_flags (s : State) (f : WideFile) (r : Reg) (j : Nat) (v : PortWord) : (s.hostWriteLimb f r j v).flags = s.flags :=
  by cases f <;> rfl
@[simp] theorem hostWriteLimb_cause (s : State) (f : WideFile) (r : Reg) (j : Nat) (v : PortWord) : (s.hostWriteLimb f r j v).cause = s.cause :=
  by cases f <;> rfl
@[simp] theorem hostWriteLimb_ecmd (s : State) (f : WideFile) (r : Reg) (j : Nat) (v : PortWord) : (s.hostWriteLimb f r j v).ecmd = s.ecmd :=
  by cases f <;> rfl
@[simp] theorem hostWriteLimb_tspace (s : State) (f : WideFile) (r : Reg) (j : Nat) (v : PortWord) : (s.hostWriteLimb f r j v).tspace = s.tspace :=
  by cases f <;> rfl
@[simp] theorem hostWriteLimb_baddr (s : State) (f : WideFile) (r : Reg) (j : Nat) (v : PortWord) : (s.hostWriteLimb f r j v).baddr = s.baddr :=
  by cases f <;> rfl
@[simp] theorem hostWriteLimb_mem (s : State) (f : WideFile) (r : Reg) (j : Nat) (v : PortWord) : (s.hostWriteLimb f r j v).mem = s.mem :=
  by cases f <;> rfl
@[simp] theorem hostWriteLimb_cfg (s : State) (f : WideFile) (r : Reg) (j : Nat) (v : PortWord) : (s.hostWriteLimb f r j v).cfg = s.cfg :=
  by cases f <;> rfl
@[simp] theorem hostWriteLimb_pending (s : State) (f : WideFile) (r : Reg) (j : Nat) (v : PortWord) : (s.hostWriteLimb f r j v).pending = s.pending :=
  by cases f <;> rfl
@[simp] theorem hostWriteLimb_answer (s : State) (f : WideFile) (r : Reg) (j : Nat) (v : PortWord) : (s.hostWriteLimb f r j v).answer = s.answer :=
  by cases f <;> rfl

/-! ## `withFetchWord` -/

@[simp] theorem withFetchWord_t (s : State) (nbits w : Nat) : (s.withFetchWord nbits w).t = s.t := rfl
@[simp] theorem withFetchWord_d (s : State) (nbits w : Nat) : (s.withFetchWord nbits w).d = s.d := rfl
@[simp] theorem withFetchWord_q (s : State) (nbits w : Nat) : (s.withFetchWord nbits w).q = s.q := rfl
@[simp] theorem withFetchWord_o (s : State) (nbits w : Nat) : (s.withFetchWord nbits w).o = s.o := rfl
@[simp] theorem withFetchWord_pc (s : State) (nbits w : Nat) : (s.withFetchWord nbits w).pc = s.pc := rfl
@[simp] theorem withFetchWord_flags (s : State) (nbits w : Nat) : (s.withFetchWord nbits w).flags = s.flags := rfl
@[simp] theorem withFetchWord_cause (s : State) (nbits w : Nat) : (s.withFetchWord nbits w).cause = 0 := rfl
@[simp] theorem withFetchWord_ecmd (s : State) (nbits w : Nat) : (s.withFetchWord nbits w).ecmd = s.ecmd := rfl
@[simp] theorem withFetchWord_tspace (s : State) (nbits w : Nat) : (s.withFetchWord nbits w).tspace = s.tspace := rfl
@[simp] theorem withFetchWord_baddr (s : State) (nbits w : Nat) : (s.withFetchWord nbits w).baddr = s.baddr := rfl
@[simp] theorem withFetchWord_mem (s : State) (nbits w : Nat) : (s.withFetchWord nbits w).mem = s.mem := rfl
@[simp] theorem withFetchWord_cfg (s : State) (nbits w : Nat) : (s.withFetchWord nbits w).cfg = s.cfg := rfl
@[simp] theorem withFetchWord_pending (s : State) (nbits w : Nat) : (s.withFetchWord nbits w).pending = .write 0 8 (BitVec.ofNat 64 (w % 2 ^ nbits)) :: s.pending := rfl
@[simp] theorem withFetchWord_answer (s : State) (nbits w : Nat) : (s.withFetchWord nbits w).answer = s.answer := rfl

/-! ## Registers after a register write -/

/-- Equal tick files read alike. -/
theorem readT_congr {s s' : State} (h : s'.t = s.t) (r : TReg) : s'.readT r = s.readT r := by
  simp [State.readT, h]

/-- Equal wide files read alike. -/
theorem readWide_congr {s s' : State} (hd : s'.d = s.d) (hq : s'.q = s.q) (ho : s'.o = s.o)
    (f : WideFile) (r : Reg) : s'.readWide f r = s.readWide f r := by
  cases f <;> simp [State.readWide, hd, hq, ho]

/-- A tick register reads back the signed value of the 32-bit pattern written. -/
theorem readT_writeT_same (s : State) (r : TReg) (v : Int) :
    (s.writeT r v).readT r = (BitVec.ofInt 32 v).toInt := by
  simp [State.readT, Vector.get_eq_getElem]

/-- A value in the 32-bit signed range reads back as itself. -/
theorem readT_writeT_of_fits (s : State) (r : TReg) (v : Int) (hlo : -2 ^ 31 ≤ v) (hhi : v < 2 ^ 31) :
    (s.writeT r v).readT r = v := by
  rw [readT_writeT_same, BitVec.toInt_ofInt]
  exact Int.bmod_eq_of_le (by norm_num at *; omega) (by norm_num at *; omega)

/-- Another tick register is not changed by a write. -/
theorem readT_writeT_other (s : State) {r r' : TReg} (v : Int) (h : r' ≠ r) :
    (s.writeT r v).readT r' = s.readT r' := by
  have hne : r.val ≠ r'.val := fun e => h (Fin.ext e.symm)
  simp [State.readT, Vector.get_eq_getElem, Vector.getElem_set_ne _ _ hne]

/-- A wide register reads back the low `W` bits of the value written. -/
theorem readWide_writeWide_same (s : State) (f : WideFile) (r : Reg) (v : Nat) :
    (s.writeWide f r v).readWide f r = v % 2 ^ f.bits := by
  cases f <;>
    simp only [State.readWide, State.writeWide, Vector.get_eq_getElem, WideFile.bits,
      Vector.getElem_set_self, BitVec.toNat_ofNat]

/-- Another wide register, of the same or another file, is not changed by a write. -/
theorem readWide_writeWide_other (s : State) {f g : WideFile} {r r' : Reg} (v : Nat)
    (h : ¬ (g = f ∧ r' = r)) : (s.writeWide f r v).readWide g r' = s.readWide g r' := by
  have hne : g = f → r.val ≠ r'.val := fun e e' => h ⟨e, (Fin.ext e').symm⟩
  cases f <;> cases g <;> try rfl
  all_goals
    simp only [State.readWide, State.writeWide, Vector.get_eq_getElem,
      Vector.getElem_set_ne _ _ (hne rfl)]

/-- A wide register holds a value below `2^W`. -/
theorem readWide_lt (s : State) (f : WideFile) (r : Reg) : s.readWide f r < 2 ^ f.bits := by
  cases f <;> simp only [WideFile.bits, State.readWide] <;> exact BitVec.isLt _

/-- A tick register holds a 32-bit signed value. -/
theorem readT_range (s : State) (r : TReg) : -2 ^ 31 ≤ s.readT r ∧ s.readT r < 2 ^ 31 := by
  have h1 := BitVec.le_toInt (s.t.get r)
  have h2 := BitVec.toInt_lt (x := s.t.get r)
  exact ⟨by simpa [State.readT] using h1, by simpa [State.readT] using h2⟩

@[simp] theorem writeT_readWide (s : State) (r : TReg) (v : Int) (g : WideFile) (x : Reg) :
    (s.writeT r v).readWide g x = s.readWide g x :=
  readWide_congr (by simp) (by simp) (by simp) g x
@[simp] theorem writeWide_readT (s : State) (f : WideFile) (r : Reg) (v : Nat) (x : TReg) : (s.writeWide f r v).readT x = s.readT x :=
  readT_congr (by simp) x
@[simp] theorem writeBaddr_readT (s : State) (v : BitVec 26) (x : TReg) : (s.writeBaddr v).readT x = s.readT x :=
  readT_congr (by simp) x
@[simp] theorem writeBaddr_readWide (s : State) (v : BitVec 26) (g : WideFile) (x : Reg) :
    (s.writeBaddr v).readWide g x = s.readWide g x :=
  readWide_congr (by simp) (by simp) (by simp) g x
@[simp] theorem withMem_readT (s : State) (m : Memory) (x : TReg) : (s.withMem m).readT x = s.readT x :=
  readT_congr (by simp) x
@[simp] theorem withMem_readWide (s : State) (m : Memory) (g : WideFile) (x : Reg) :
    (s.withMem m).readWide g x = s.readWide g x :=
  readWide_congr (by simp) (by simp) (by simp) g x
@[simp] theorem setF_readT (s : State) (b : Bool) (x : TReg) : (s.setF b).readT x = s.readT x :=
  readT_congr (by simp) x
@[simp] theorem setF_readWide (s : State) (b : Bool) (g : WideFile) (x : Reg) :
    (s.setF b).readWide g x = s.readWide g x :=
  readWide_congr (by simp) (by simp) (by simp) g x
@[simp] theorem setC_readT (s : State) (b : Bool) (x : TReg) : (s.setC b).readT x = s.readT x :=
  readT_congr (by simp) x
@[simp] theorem setC_readWide (s : State) (b : Bool) (g : WideFile) (x : Reg) :
    (s.setC b).readWide g x = s.readWide g x :=
  readWide_congr (by simp) (by simp) (by simp) g x
@[simp] theorem setZL_readT (s : State) (z l : Bool) (x : TReg) : (s.setZL z l).readT x = s.readT x :=
  readT_congr (by simp) x
@[simp] theorem setZL_readWide (s : State) (z l : Bool) (g : WideFile) (x : Reg) :
    (s.setZL z l).readWide g x = s.readWide g x :=
  readWide_congr (by simp) (by simp) (by simp) g x
@[simp] theorem retire_readT (s : State) (x : TReg) : s.retire.readT x = s.readT x :=
  readT_congr (by simp) x
@[simp] theorem retire_readWide (s : State) (g : WideFile) (x : Reg) :
    s.retire.readWide g x = s.readWide g x :=
  readWide_congr (by simp) (by simp) (by simp) g x
@[simp] theorem raise_readT (s : State) (e : Cause) (w : CommandWord) (x : TReg) : (s.raise e w).readT x = s.readT x :=
  readT_congr (by simp) x
@[simp] theorem raise_readWide (s : State) (e : Cause) (w : CommandWord) (g : WideFile) (x : Reg) :
    (s.raise e w).readWide g x = s.readWide g x :=
  readWide_congr (by simp) (by simp) (by simp) g x
@[simp] theorem acknowledge_readT (s : State) (x : TReg) : s.acknowledge.readT x = s.readT x :=
  readT_congr (by simp) x
@[simp] theorem acknowledge_readWide (s : State) (g : WideFile) (x : Reg) :
    s.acknowledge.readWide g x = s.readWide g x :=
  readWide_congr (by simp) (by simp) (by simp) g x
@[simp] theorem bitWrite_readT (s : State) (k : Int) (b : Bool) (x : TReg) : (s.bitWrite k b).readT x = s.readT x :=
  readT_congr (by simp) x
@[simp] theorem bitWrite_readWide (s : State) (k : Int) (b : Bool) (g : WideFile) (x : Reg) :
    (s.bitWrite k b).readWide g x = s.readWide g x :=
  readWide_congr (by simp) (by simp) (by simp) g x
@[simp] theorem took_readT (s : State) (rest : List HostEvent) (x : TReg) : (s.took rest).readT x = s.readT x :=
  readT_congr (by simp) x
@[simp] theorem took_readWide (s : State) (rest : List HostEvent) (g : WideFile) (x : Reg) :
    (s.took rest).readWide g x = s.readWide g x :=
  readWide_congr (by simp) (by simp) (by simp) g x
@[simp] theorem answered_readT (s : State) (v : PortWord) (x : TReg) : (s.answered v).readT x = s.readT x :=
  readT_congr (by simp) x
@[simp] theorem answered_readWide (s : State) (v : PortWord) (g : WideFile) (x : Reg) :
    (s.answered v).readWide g x = s.readWide g x :=
  readWide_congr (by simp) (by simp) (by simp) g x
@[simp] theorem hostWriteTspace_readT (s : State) (v : PortWord) (x : TReg) : (s.hostWriteTspace v).readT x = s.readT x :=
  readT_congr (by simp) x
@[simp] theorem hostWriteTspace_readWide (s : State) (v : PortWord) (g : WideFile) (x : Reg) :
    (s.hostWriteTspace v).readWide g x = s.readWide g x :=
  readWide_congr (by simp) (by simp) (by simp) g x
@[simp] theorem hostWriteT_readWide (s : State) (r : TReg) (v : PortWord) (g : WideFile) (x : Reg) :
    (s.hostWriteT r v).readWide g x = s.readWide g x :=
  readWide_congr (by simp) (by simp) (by simp) g x
@[simp] theorem hostWriteLimb_readT (s : State) (f : WideFile) (r : Reg) (j : Nat) (v : PortWord) (x : TReg) : (s.hostWriteLimb f r j v).readT x = s.readT x :=
  readT_congr (by simp) x
@[simp] theorem withFetchWord_readT (s : State) (nbits w : Nat) (x : TReg) : (s.withFetchWord nbits w).readT x = s.readT x :=
  readT_congr (by simp) x
@[simp] theorem withFetchWord_readWide (s : State) (nbits w : Nat) (g : WideFile) (x : Reg) :
    (s.withFetchWord nbits w).readWide g x = s.readWide g x :=
  readWide_congr (by simp) (by simp) (by simp) g x

/-! ## What the slot functions read -/

/-- The span depends on `TSPACE` and the configuration only (43_bitmap.md R212). -/
theorem span_congr {s s' : State} (ht : s'.tspace = s.tspace) (hc : s'.cfg = s.cfg) :
    s'.span = s.span := by
  simp [State.span, ht, hc]

/-- The slot domain depends on `TSPACE` and the configuration only (43_bitmap.md R214). -/
theorem kmin_congr {s s' : State} (ht : s'.tspace = s.tspace) (hc : s'.cfg = s.cfg) :
    s'.kmin = s.kmin := by
  simp [State.kmin, span_congr ht hc]

/-- The slot domain depends on `TSPACE` and the configuration only (43_bitmap.md R214). -/
theorem kmax_congr {s s' : State} (ht : s'.tspace = s.tspace) (hc : s'.cfg = s.cfg) :
    s'.kmax = s.kmax := by
  simp [State.kmax, span_congr ht hc]

/-- A bitmap bit depends on the memories and the configuration only (43_bitmap.md R216). -/
theorem bitRead_congr {s s' : State} (hm : s'.mem = s.mem) (hc : s'.cfg = s.cfg) (k : Int) :
    s'.bitRead k = s.bitRead k := by
  simp [State.bitRead, State.slotOffset, hm, hc]

end Sys2Proof.Machine
end

