-- ==== Sys2Proof/Laws/Ops.lean ====
section
/-! SUPPORT. Laws/Ops.lean: for each shared operation, once, everything it can do. -/

namespace Sys2Proof.Machine

/-! ## Retiring and raising -/

/-- Completing answers the retired state and nothing else. -/
@[simp] theorem complete_next (s s' : State) : complete s = .next s' ↔ s.retire = s' := by
  simp [complete]

/-- Raising answers the trap-entry state and nothing else. -/
@[simp] theorem trap_next (e : Cause) (w : CommandWord) (s s' : State) :
    trap e w s = .next s' ↔ s.raise e w = s' := by
  simp [trap]

/-- A cause code is 1 to 6 (60_exceptions.md R261). -/
theorem Cause.code_range (e : Cause) : 1 ≤ e.code.toNat ∧ e.code.toNat ≤ 6 := by
  cases e <;> decide

/-- Trap entry halts the block (60_exceptions.md R270). -/
theorem raise_halted (s : State) (e : Cause) (w : CommandWord) : (s.raise e w).halted := by
  cases e <;> simp [State.halted, Cause.code]

/-! ## Wide arithmetic -/

/-- What `DIV.W` can do (40_wide_arith.md R125). -/
theorem divOp_cases {f : WideFile} {rd ra rb : Reg} {w : CommandWord} {s s' : State}
    (h : divOp f rd ra rb w s = .next s') :
    (s.readWide f rb = 0 ∧ s' = s.raise .divisionByZero w) ∨
      (s.readWide f rb ≠ 0 ∧
        s' = (s.writeWide f rd (s.readWide f ra / s.readWide f rb)).retire) := by
  unfold divOp at h
  split at h
  · next h0 => exact .inl ⟨h0, ((trap_next _ _ _ _).1 h).symm⟩
  · next h0 => exact .inr ⟨h0, ((complete_next _ _).1 h).symm⟩

/-- What `SHL.W` can do (40_wide_arith.md R126): a distance of the width or more leaves 0, which is
also what the truncated product is. -/
theorem shlOp_eq (f : WideFile) (rd ra : Reg) (n : Nat) (s : State) :
    shlOp f rd ra n s = complete (s.writeWide f rd (s.readWide f ra * 2 ^ n % 2 ^ f.bits)) := by
  unfold shlOp
  split
  · next h =>
    rw [Nat.mod_eq_zero_of_dvd (Dvd.dvd.mul_left (Nat.pow_dvd_pow 2 h) _)]
  · rfl

/-- What `SHR.W` can do (40_wide_arith.md R127): a distance of the width or more leaves 0, which is
also what the quotient is. -/
theorem shrOp_eq (f : WideFile) (rd ra : Reg) (n : Nat) (s : State) :
    shrOp f rd ra n s = complete (s.writeWide f rd (s.readWide f ra / 2 ^ n)) := by
  unfold shrOp
  split
  · next h =>
    have hlt := lt_of_lt_of_le (readWide_lt s f ra) (Nat.pow_le_pow_right (by norm_num : 0 < 2) h)
    rw [Nat.div_eq_of_lt hlt]
  · rfl

/-- What `SNR` can do (40_wide_arith.md R131). -/
theorem snrOp_eq (narrow wide : WideFile) (rd ra : Reg) (s : State) :
    snrOp narrow wide rd ra s =
      complete (s.writeWide narrow rd
        (if s.readWide wide ra < 2 ^ narrow.bits then s.readWide wide ra else 0)) := by
  unfold snrOp
  split <;> rfl

/-- What the narrowing division of `DIVN`, `MDF` and `MDC` can do (41_muldiv.md R161 to R163, R167). -/
theorem narrowingDivide_cases {f : WideFile} {rd : Reg} {num den : Nat} {w : CommandWord}
    {s s' : State} (h : narrowingDivide f rd num den w s = .next s') :
    (den = 0 ∧ s' = s.raise .divisionByZero w) ∨
      (den ≠ 0 ∧ 2 ^ f.bits ≤ num / den ∧ s' = s.raise .arithmeticOverflow w) ∨
      (den ≠ 0 ∧ num / den < 2 ^ f.bits ∧ s' = (s.writeWide f rd (num / den)).retire) := by
  unfold narrowingDivide at h
  split at h
  · next h0 => exact .inl ⟨h0, ((trap_next _ _ _ _).1 h).symm⟩
  · next h0 =>
    split at h
    · next h1 => exact .inr (.inl ⟨h0, h1, ((trap_next _ _ _ _).1 h).symm⟩)
    · next h1 => exact .inr (.inr ⟨h0, by omega, ((complete_next _ _).1 h).symm⟩)

/-! ## Bitmap operands -/

/-- `checkStart` accepts exactly the valid start indices and answers their slot (43_bitmap.md R221). -/
theorem checkStart_eq_some {s : State} {x k : Int} :
    s.checkStart x = some k ↔ s.validStart x ∧ k = slotOf s.span x := by
  unfold State.checkStart State.validStart
  constructor
  · intro h
    split at h
    · simp at h
    · split at h
      · simp at h
      · simp only [Option.some.injEq] at h
        exact ⟨⟨by omega, by omega, by omega⟩, h.symm⟩
  · rintro ⟨⟨h1, h2, h3⟩, rfl⟩
    rw [if_neg (by omega), if_neg (by omega)]

/-- `checkStart` refuses every other value (43_bitmap.md R221). -/
theorem checkStart_eq_none {s : State} {x : Int} : s.checkStart x = none ↔ ¬ s.validStart x := by
  rw [← not_iff_not, not_not, ← Ne, Option.ne_none_iff_exists']
  exact ⟨fun ⟨k, hk⟩ => (checkStart_eq_some.1 hk).1, fun h => ⟨_, checkStart_eq_some.2 ⟨h, rfl⟩⟩⟩

/-- What a bitmap command can do with its start index (43_bitmap.md R221). -/
theorem withSlot_cases {ra : TReg} {w : CommandWord} {s s' : State} {act : Int → StepResult}
    (h : withSlot ra w s act = .next s') :
    (¬ s.validStart (s.readT ra) ∧ s' = s.raise .invalidStartIndex w) ∨
      (s.validStart (s.readT ra) ∧ act (slotOf s.span (s.readT ra)) = .next s') := by
  unfold withSlot at h
  split at h
  · next h0 => exact .inl ⟨checkStart_eq_none.1 h0, ((trap_next _ _ _ _).1 h).symm⟩
  · next k h0 =>
    obtain ⟨hv, rfl⟩ := checkStart_eq_some.1 h0
    exact .inr ⟨hv, h⟩

/-- A bitmap command on a valid start index acts on its slot. -/
theorem withSlot_valid {ra : TReg} {w : CommandWord} {s : State} {act : Int → StepResult}
    (h : s.validStart (s.readT ra)) :
    withSlot ra w s act = act (slotOf s.span (s.readT ra)) := by
  simp [withSlot, checkStart_eq_some.2 ⟨h, rfl⟩]

/-- A bitmap command on any other value raises. -/
theorem withSlot_invalid {ra : TReg} {w : CommandWord} {s : State} {act : Int → StepResult}
    (h : ¬ s.validStart (s.readT ra)) :
    withSlot ra w s act = trap .invalidStartIndex w s := by
  simp [withSlot, checkStart_eq_none.2 h]

/-! ## One step -/

/-- What a step that answers a next state did: a command of the next host event, or the event itself
(20_memory.md R61, R64). -/
theorem step_cases {s s' : State} (h : step s = .next s') :
    ∃ e rest, s.pending = e :: rest ∧
      ((∃ c, hostEffect (s.took rest) e = .command c ∧ runCommand c (s.took rest) = .next s') ∨
        hostEffect (s.took rest) e = .accepted s') := by
  unfold step at h
  split at h
  · simp at h
  · next e rest hp =>
    refine ⟨e, rest, hp, ?_⟩
    split at h
    · simp at h
    · simp at h
    · next c hc => exact .inl ⟨c, hc, h⟩
    · next t ht => exact .inr (by simpa [ht] using h)

/-- What a command word can do: its command's meaning, or `IllegalCommand` (30_encoding.md R94). -/
theorem runCommand_cases {c : CommandWord} {s s' : State} (h : runCommand c s = .next s') :
    (∃ i, decode c = .ok i ∧ exec i s = .next s') ∨
      (∃ why, decode c = .error why ∧ s' = s.raise .illegalCommand c) := by
  unfold runCommand at h
  split at h
  · next i hi => exact .inl ⟨i, hi, h⟩
  · next why hw => exact .inr ⟨why, hw, ((trap_next _ _ _ _).1 h).symm⟩

/-- The port accepts a presented command word while the block is not halted (20_memory.md R64). -/
theorem hostEffect_presentCommand {s : State} (h : s.cause = 0) (c : CommandWord) :
    hostEffect s (presentCommand c) = .command c := by
  have hx : (c.setWidth 64).extractLsb' 32 32 = 0#32 := by
    apply BitVec.eq_of_getLsbD_eq
    intro i hi
    simp only [BitVec.getLsbD_extractLsb', BitVec.getLsbD_setWidth, BitVec.getLsbD_zero]
    rw [BitVec.getLsbD_of_ge c _ (by omega)]
    simp
  have hb : (c.setWidth 64).setWidth 32 = c := by
    apply BitVec.eq_of_getLsbD_eq
    intro i hi
    simp [hi]
  simp [hostEffect, presentCommand, accessTarget, portTarget, controlTarget, portWrite, hx, hb, h]

end Sys2Proof.Machine
end

