-- ==== Sys2Proof/Laws/Bitmap.lean ====
section
/-! SUPPORT. Laws/Bitmap.lean: the slot arithmetic of 43_bitmap.md R213 to R215, where a slot's bit
lies, and what the directional search finds (R225). -/

namespace Sys2Proof.Machine

/-! ## The directional search -/

/-- What the upward search answers: the first slot with a set bit among `k, …, k + n - 1`. -/
theorem searchUp_eq_some {s : State} {n : Nat} {k x : Int} (h : s.searchUp n k = some x) :
    k ≤ x ∧ x < k + n ∧ s.bitRead x = true ∧ ∀ y, k ≤ y → y < x → s.bitRead y = false := by
  induction n generalizing k with
  | zero => simp [State.searchUp] at h
  | succ n ih =>
    unfold State.searchUp at h
    split at h
    · next hb =>
      obtain rfl := Option.some.inj h
      exact ⟨le_refl _, by omega, hb, fun y h1 h2 => by omega⟩
    · next hb =>
      obtain ⟨h1, h2, h3, h4⟩ := ih h
      refine ⟨by omega, by push_cast; omega, h3, fun y hy1 hy2 => ?_⟩
      rcases eq_or_lt_of_le hy1 with rfl | hy
      · simpa using hb
      · exact h4 y (by omega) hy2

/-- The upward search finds nothing only where no bit is set. -/
theorem searchUp_eq_none {s : State} {n : Nat} {k : Int} (h : s.searchUp n k = none) :
    ∀ y, k ≤ y → y < k + n → s.bitRead y = false := by
  induction n generalizing k with
  | zero => intro y h1 h2; push_cast at h2; omega
  | succ n ih =>
    unfold State.searchUp at h
    split at h
    · simp at h
    · next hb =>
      intro y hy1 hy2
      rcases eq_or_lt_of_le hy1 with rfl | hy
      · simpa using hb
      · exact ih h y (by omega) (by push_cast at hy2; omega)

/-- What the downward search answers: the first slot with a set bit among `k, …, k - n + 1`. -/
theorem searchDown_eq_some {s : State} {n : Nat} {k x : Int} (h : s.searchDown n k = some x) :
    x ≤ k ∧ k - n < x ∧ s.bitRead x = true ∧ ∀ y, y ≤ k → x < y → s.bitRead y = false := by
  induction n generalizing k with
  | zero => simp [State.searchDown] at h
  | succ n ih =>
    unfold State.searchDown at h
    split at h
    · next hb =>
      obtain rfl := Option.some.inj h
      exact ⟨le_refl _, by push_cast; omega, hb, fun y h1 h2 => by omega⟩
    · next hb =>
      obtain ⟨h1, h2, h3, h4⟩ := ih h
      refine ⟨by omega, by push_cast; omega, h3, fun y hy1 hy2 => ?_⟩
      rcases eq_or_lt_of_le hy1 with rfl | hy
      · simpa using hb
      · exact h4 y (by omega) hy2

/-- The downward search finds nothing only where no bit is set. -/
theorem searchDown_eq_none {s : State} {n : Nat} {k : Int} (h : s.searchDown n k = none) :
    ∀ y, y ≤ k → k - n < y → s.bitRead y = false := by
  induction n generalizing k with
  | zero => intro y h1 h2; push_cast at h2; omega
  | succ n ih =>
    unfold State.searchDown at h
    split at h
    · simp at h
    · next hb =>
      intro y hy1 hy2
      rcases eq_or_lt_of_le hy1 with rfl | hy
      · simpa using hb
      · exact ih h y (by omega) (by push_cast at hy2; omega)

/-! ## Slots -/

/-- A slot of a positive span is bounded by two starts. -/
theorem slotOf_bounds {S : Int} (hS : 0 < S) (x : Int) :
    slotOf S x * S ≤ x ∧ x < (slotOf S x + 1) * S := by
  unfold slotOf
  rw [Int.fdiv_eq_ediv_of_nonneg _ (le_of_lt hS)]
  constructor
  · exact Int.ediv_mul_le x (ne_of_gt hS)
  · have := Int.lt_ediv_add_one_mul_self x hS
    simpa [add_mul] using this

/-- The start index of a slot is aligned and has that slot (43_bitmap.md R213). -/
theorem slotOf_mul {S : Int} (hS : 0 < S) (k : Int) : slotOf S (k * S) = k := by
  unfold slotOf
  rw [Int.fdiv_eq_ediv_of_nonneg _ (le_of_lt hS), Int.mul_ediv_cancel _ (ne_of_gt hS)]

/-- An aligned value is its slot times the span (43_bitmap.md R213). -/
theorem slotOf_mul_of_aligned {S x : Int} (hx : Int.fmod x S = 0) :
    slotOf S x * S = x := by
  have := Int.fmod_add_mul_fdiv x S
  unfold slotOf
  linarith [mul_comm (Int.fdiv x S) S]

/-- The slots of a smaller value are no greater. -/
theorem slotOf_mono {S : Int} (hS : 0 < S) {x y : Int} (h : x ≤ y) : slotOf S x ≤ slotOf S y := by
  unfold slotOf
  rw [Int.fdiv_eq_ediv_of_nonneg _ (le_of_lt hS), Int.fdiv_eq_ediv_of_nonneg _ (le_of_lt hS)]
  exact Int.ediv_le_ediv hS h

/-- The span is positive once the spacing and the array size are (43_bitmap.md R212). -/
theorem span_pos {s : State} (ht : 1 ≤ s.tspace.toNat) (ha : 1 ≤ s.cfg.arraySize) : 0 < s.span := by
  unfold State.span
  exact mul_pos (by exact_mod_cast ht) (by exact_mod_cast ha)

/-! ## Where a slot's bit lies -/

/-- A slot's bit offset is below 64 (43_bitmap.md R215). -/
theorem slotAddress_bit_lt (c : Config) (k : Int) : (slotAddress c k).bit < 64 := by
  unfold slotAddress SlotAddress.ofPos
  dsimp only
  split_ifs <;> exact Nat.mod_lt _ (by norm_num)

/-- Every slot of the domain lies within the coverage of the memories (43_bitmap.md R214). -/
theorem domain_covered {s : State} (hg : Geometry s.cfg) (ht : 1 ≤ s.tspace.toNat) {k : Int}
    (h1 : s.kmin ≤ k) (h2 : k ≤ s.kmax) :
    -((s.cfg.half + s.cfg.sideBits : Nat) : Int) ≤ k ∧ k < (s.cfg.half + s.cfg.sideBits : Nat) := by
  have hS := span_pos ht hg.arraySize_pos
  have hcov := hg.coverage
  have hspan : (s.cfg.arraySize : Int) ≤ s.span := by
    unfold State.span
    nlinarith [hg.arraySize_pos, show (1 : Int) ≤ s.tspace.toNat by exact_mod_cast ht]
  have hb1 := slotOf_bounds hS minTick
  have hb2 := slotOf_bounds hS maxTick
  push_cast at hcov
  have hNn : (0 : Int) ≤ (s.cfg.half : Int) + s.cfg.sideBits := by positivity
  have hcov' : maxTick < ((s.cfg.half : Int) + s.cfg.sideBits) * s.span :=
    lt_of_lt_of_le hcov (mul_le_mul_of_nonneg_left hspan hNn)
  have hmin : minTick = -maxTick := by decide
  push_cast
  constructor
  · have : -((s.cfg.half : Int) + s.cfg.sideBits) < s.kmin + 1 := by
      by_contra hcon
      have : (s.kmin + 1) * s.span ≤ -((s.cfg.half : Int) + s.cfg.sideBits) * s.span :=
        mul_le_mul_of_nonneg_right (not_lt.1 hcon) (le_of_lt hS)
      have h3 : minTick < (s.kmin + 1) * s.span := hb1.2
      linarith
    omega
  · have : s.kmax < (s.cfg.half : Int) + s.cfg.sideBits := by
      by_contra hcon
      have : ((s.cfg.half : Int) + s.cfg.sideBits) * s.span ≤ s.kmax * s.span :=
        mul_le_mul_of_nonneg_right (not_lt.1 hcon) (le_of_lt hS)
      have h3 : s.kmax * s.span ≤ maxTick := hb2.1
      linarith
    omega

end Sys2Proof.Machine
end

