-- ==== Sys2Proof/Laws/Converter.lean ====
section
/-! SUPPORT. Laws/Converter.lean: what the bisection of `SP2T` keeps, and the bound of the accumulator of
`T2SP` (42_converter.md R182, R186). -/

namespace Sys2Proof.Machine

/-- The bisection ends on adjacent ticks that bracket the price, if it starts on ticks that bracket it
and has halvings enough. It needs no monotonicity of the table. -/
theorem bisectTick_brackets {k : Ktab} {p n : Nat} {lo hi : Int} (hlt : lo < hi)
    (hn : hi - lo ≤ 2 ^ n) (hlo : tickToSqrtPrice k lo ≤ p) (hhi : p < tickToSqrtPrice k hi) :
    tickToSqrtPrice k (bisectTick k p n lo hi) ≤ p ∧
      p < tickToSqrtPrice k (bisectTick k p n lo hi + 1) ∧
      lo ≤ bisectTick k p n lo hi ∧ bisectTick k p n lo hi < hi := by
  induction n generalizing lo hi with
  | zero =>
    have : hi = lo + 1 := by norm_num at hn; omega
    subst this
    exact ⟨hlo, hhi, le_refl _, hlt⟩
  | succ n ih =>
    unfold bisectTick
    rw [pow_succ] at hn
    split
    · next h =>
      have : hi = lo + 1 := by omega
      subst this
      exact ⟨hlo, hhi, le_refl _, hlt⟩
    · next h =>
      split
      · next hm =>
        obtain ⟨h1, h2, h3, h4⟩ := ih (lo := (lo + hi) / 2) (by omega) (by omega) hm hhi
        exact ⟨h1, h2, by omega, h4⟩
      · next hm =>
        obtain ⟨h1, h2, h3, h4⟩ := ih (hi := (lo + hi) / 2) (by omega) (by omega) hlo (not_le.1 hm)
        exact ⟨h1, h2, h3, by omega⟩

/-- One step of the accumulator stays at or below `2^64`. -/
theorem ratioStep_le {k : Ktab} {a r : Nat} (hr : r ≤ 2 ^ 64) (i : Fin 19) :
    ratioStep k a r i ≤ 2 ^ 64 := by
  unfold ratioStep
  split
  · have := (k.get i).isLt
    exact Nat.div_le_of_le_mul (Nat.mul_le_mul hr (le_of_lt this))
  · exact hr

/-- The accumulator never exceeds `2^64` (42_converter.md R182). -/
theorem ratio_le (k : Ktab) (a : Nat) : ratio k a ≤ 2 ^ 64 := by
  have hfold : ∀ (l : List (Fin 19)) (r : Nat), r ≤ 2 ^ 64 → l.foldl (ratioStep k a) r ≤ 2 ^ 64 := by
    intro l
    induction l with
    | nil => exact fun _ h => h
    | cons i l ih => exact fun r h => ih _ (ratioStep_le h i)
  refine hfold _ _ ?_
  split
  · exact le_of_lt (k.get 0).isLt
  · exact le_refl _

/-- A square-root price fits 128 bits (42_converter.md R182). -/
theorem tickToSqrtPrice_lt (k : Ktab) (tick : Int) : tickToSqrtPrice k tick < 2 ^ 128 := by
  unfold tickToSqrtPrice
  split
  · exact lt_of_le_of_lt (Nat.div_le_self _ _) (by norm_num)
  · exact lt_of_le_of_lt (ratio_le k _) (by norm_num)

end Sys2Proof.Machine
end

