-- ==== Sys2Proof/Laws/Encoding.lean ====
section
/-! SUPPORT. Laws/Encoding.lean: what one field of a command word contributes to a mask and to each
field read from the word, so that a word built by `encode` can be taken apart field by field. -/

namespace Sys2Proof

/-! ## Fields under a mask -/

/-- A register field under a mask that leaves its three bits free. -/
theorem regField_masked (r : Reg) (lo : Nat) (mask : CommandWord)
    (h : (7#3).setWidth 32 <<< lo &&& mask = 0#32) : regField r lo &&& mask = 0#32 := by
  apply BitVec.eq_of_getLsbD_eq
  intro i hi
  have hb := congrArg (fun x => BitVec.getLsbD x i) h
  have h7 : ∀ j, j < 3 → (7#3).getLsbD j = true := by decide
  simp only [regField, BitVec.getLsbD_and, BitVec.getLsbD_shiftLeft, BitVec.getLsbD_setWidth,
    BitVec.getLsbD_zero] at hb ⊢
  by_cases hlo : i < lo
  · simp [hlo]
  · by_cases h3 : i - lo < 3
    · have hm : mask.getLsbD i = false := by simpa [hi, hlo, h7 _ h3, show i - lo < 32 by omega] using hb
      simp [hm]
    · rw [BitVec.getLsbD_of_ge _ (i - lo) (by omega)]
      simp

/-- A low field of `n` bits under a mask that leaves those bits free. -/
theorem lowField_masked {n : Nat} (x : BitVec n) (mask : CommandWord)
    (h : ∀ i, i < n → mask.getLsbD i = false) : x.setWidth 32 &&& mask = 0#32 := by
  apply BitVec.eq_of_getLsbD_eq
  intro i hi
  rw [BitVec.getLsbD_and, BitVec.getLsbD_setWidth, BitVec.getLsbD_zero]
  by_cases hn : i < n
  · simp [h i hn]
  · simp [BitVec.getLsbD_of_ge x i (by omega)]

/-! ## Fields read from a field -/

/-- A register field reads back at its own position. -/
theorem extract_regField_same (r : Reg) (lo : Nat) (h : lo + 3 ≤ 32) :
    (regField r lo).extractLsb' lo 3 = BitVec.ofNat 3 r.val := by
  apply BitVec.eq_of_getLsbD_eq
  intro i hi
  simp [regField, hi, show lo + i < 32 by omega]

/-- A register field contributes nothing to a field that does not overlap it. -/
theorem extract_regField_other (r : Reg) (lo at' len : Nat) (h : at' + len ≤ lo ∨ lo + 3 ≤ at') :
    (regField r lo).extractLsb' at' len = 0#len := by
  apply BitVec.eq_of_getLsbD_eq
  intro i hi
  simp only [regField, BitVec.getLsbD_extractLsb', BitVec.getLsbD_shiftLeft, BitVec.getLsbD_setWidth,
    BitVec.getLsbD_zero]
  by_cases hlo : at' + i < lo
  · simp [hlo]
  · rw [BitVec.getLsbD_of_ge _ (at' + i - lo) (by omega)]
    simp

/-- A low field reads back. -/
theorem extract_lowField_same {n : Nat} (x : BitVec n) (h : n ≤ 32) :
    (x.setWidth 32).extractLsb' 0 n = x := by
  apply BitVec.eq_of_getLsbD_eq
  intro i hi
  simp [hi, show i < 32 by omega]

/-- A low field contributes nothing to a field above it. -/
theorem extract_lowField_above {n : Nat} (x : BitVec n) (at' len : Nat) (h : n ≤ at') :
    (x.setWidth 32).extractLsb' at' len = 0#len := by
  apply BitVec.eq_of_getLsbD_eq
  intro i hi
  simp only [BitVec.getLsbD_extractLsb', BitVec.getLsbD_setWidth, BitVec.getLsbD_zero]
  rw [BitVec.getLsbD_of_ge x _ (by omega)]
  simp

/-- A row's fixed bits contribute nothing to a field they leave zero. -/
theorem extract_const (c : CommandWord) (lo len : Nat) (h : c.extractLsb' lo len = 0#len) :
    c.extractLsb' lo len = 0#len := h

/-! ## Field values -/

/-- The three bits of a register number. -/
theorem ofNat_three_toNat (r : Reg) : Fin.ofNat 8 (BitVec.ofNat 3 r.val).toNat = r := by
  revert r
  decide

/-- An `imm16` that fits its field is read back. -/
theorem imm16_back {imm : Nat} (h : imm16Fits imm = true) : (BitVec.ofNat 16 imm).toNat = imm := by
  have := of_decide_eq_true h
  simp [Nat.mod_eq_of_lt this]

/-- A `shamt` that fits its field is read back. -/
theorem shamt_back {shamt : Nat} (h : shamtFits shamt = true) :
    (BitVec.ofNat 10 shamt).toNat = shamt := by
  have := of_decide_eq_true h
  simp [Nat.mod_eq_of_lt this]

/-- An `imm20` that fits its field is read back. -/
theorem imm20_back {imm : Int} (h : imm20Fits imm = true) : (BitVec.ofInt 20 imm).toInt = imm := by
  have := of_decide_eq_true h
  rw [BitVec.toInt_ofInt]
  exact Int.bmod_eq_of_le (by norm_num; omega) (by norm_num; omega)

end Sys2Proof
end

