-- ==== Sys2Proof/Laws/Frames.lean ====
section
/-! SUPPORT. Laws/Frames.lean: the frames of Safety.lean for the shared shapes of a command: one register,
flags or one bitmap word written, then retired. -/

namespace Sys2Proof.Machine

/-- A wide write that fits, then retiring. -/
theorem retiresWide_write (s : State) (f : WideFile) (rd : Reg) (v : Nat) (hv : v < 2 ^ f.bits) :
    RetiresWide f rd v s.flags s (s.writeWide f rd v).retire := by
  refine ⟨?_, fun g r h => ?_, fun r => by simp, fun a => by simp, ?_, by simp, by simp⟩
  · rw [retire_readWide, readWide_writeWide_same, Nat.mod_eq_of_lt hv]
  · rw [retire_readWide]
    exact readWide_writeWide_other s v h
  · simp [KeepsSpecial, KeepsControl]

/-- A wide write that fits and a write of `C`, then retiring. -/
theorem retiresWide_write_setC (s : State) (f : WideFile) (rd : Reg) (v : Nat) (b : Bool)
    (hv : v < 2 ^ f.bits) :
    RetiresWide f rd v { s.flags with c := b } s ((s.writeWide f rd v).setC b).retire := by
  obtain ⟨h1, h2, -, -, -, -, -⟩ := retiresWide_write s f rd v hv
  refine ⟨by simpa using h1, fun g r h => by simpa using h2 g r h, fun r => by simp, fun a => by simp,
    ?_, by simp, by simp⟩
  simp [KeepsSpecial, KeepsControl]

/-- A tick write that fits, then retiring. -/
theorem retiresTick_write (s : State) (rd : TReg) (v : Int) (hlo : -2 ^ 31 ≤ v) (hhi : v < 2 ^ 31) :
    RetiresTick rd v s.flags s (s.writeT rd v).retire := by
  refine ⟨?_, fun r h => ?_, fun f r => by simp, fun a => by simp, ?_, by simp, by simp⟩
  · rw [retire_readT, readT_writeT_of_fits s rd v hlo hhi]
  · rw [retire_readT]
    exact readT_writeT_other s v h
  · simp [KeepsSpecial, KeepsControl]

/-- A tick write that fits and a write of `F`, then retiring. -/
theorem retiresTick_write_setF (s : State) (rd : TReg) (v : Int) (b : Bool) (hlo : -2 ^ 31 ≤ v)
    (hhi : v < 2 ^ 31) :
    RetiresTick rd v { s.flags with f := b } s ((s.writeT rd v).setF b).retire := by
  obtain ⟨h1, h2, -, -, -, -, -⟩ := retiresTick_write s rd v hlo hhi
  refine ⟨by simpa using h1, fun r h => by simpa using h2 r h, fun f r => by simp, fun a => by simp,
    ?_, by simp, by simp⟩
  simp [KeepsSpecial, KeepsControl]

/-- A write of `F`, then retiring. -/
theorem retiresFlags_setF (s : State) (b : Bool) :
    RetiresFlags { s.flags with f := b } s (s.setF b).retire := by
  refine ⟨fun r => by simp, fun f r => by simp, fun a => by simp, ?_, by simp, by simp⟩
  simp [KeepsSpecial, KeepsControl]

/-- A write of `Z` and `L`, then retiring. -/
theorem retiresFlags_setZL (s : State) (z l : Bool) :
    RetiresFlags { s.flags with z := z, l := l } s (s.setZL z l).retire := by
  refine ⟨fun r => by simp, fun f r => by simp, fun a => by simp, ?_, by simp, by simp⟩
  simp [KeepsSpecial, KeepsControl]

/-- A bit write, then retiring: one word of one memory is replaced (43_bitmap.md R217). -/
theorem retiresWord_bitWrite (s : State) (hm : s.mem.wf) (k : Int) (b : Bool) :
    RetiresWord (s.slotOffset k)
      (setWordBit (s.mem.readWord (s.slotOffset k)) (slotAddress s.cfg k).bit b) s
      (s.bitWrite k b).retire := by
  refine ⟨?_, fun a h => ?_, fun r => readT_congr rfl r, fun f r => readWide_congr rfl rfl rfl f r,
    ?_, by simp, by simp⟩
  · simp only [retire_mem, bitWrite_mem]
    exact readWord_writeWord_same hm _ _
  · simp only [retire_mem, bitWrite_mem]
    exact byteAt_writeWord_other hm _ _ _ h
  · simp [KeepsSpecial, KeepsControl]

end Sys2Proof.Machine
end

