-- ==== Sys2Proof/Laws/PerInstr.lean ====
section
/-! SUPPORT. Laws/PerInstr.lean: the family `WordFitsRow`, one lemma per command: the word `encode`
writes for a well-formed command matches a row of the opcode table that reads the command back. -/

namespace Sys2Proof.Laws

/-- A well-formed command's word matches a row of the table, and the row builds the command from it
(30_encoding.md R96, R97). -/
def WordFitsRow.Statement (i : Instr) : Prop :=
  i.wellFormed = true →
    ∃ r ∈ opcodeTable, r.matchesWord (encode i) = true ∧ r.build (encode i) = i

/-- The statement from row `k` of the table: the word under the row's mask, and the fields read back. -/
theorem wordFitsRow_of_row {i : Instr} (k : Nat) (hk : k < opcodeTable.length)
    (hm : encode i &&& opcodeTable[k].mask = opcodeTable[k].value)
    (hb : i.wellFormed = true → opcodeTable[k].build (encode i) = i) : WordFitsRow.Statement i :=
  fun h => ⟨opcodeTable[k], List.getElem_mem hk, by simp [OpcodeRow.matchesWord, hm], hb h⟩

theorem WordFitsRow.wli128 (rd : DReg) (imm : Nat) :
    WordFitsRow.Statement (.wli128 rd imm) := by
  refine wordFitsRow_of_row 0 (by decide) ?_ fun h => ?_
  · show (0x08000000#32 ||| _ ||| _) &&& 0xFF8F0000#32 = 0x08000000#32
    simp (disch := decide) only [BitVec.and_or_distrib_right, regField_masked, imm16Field, lowField_masked]
    decide
  · show Instr.wli128 (regAt _ 20) (imm16At _) = _
    simp (disch := decide) only [regAt, encode, BitVec.extractLsb'_or, extract_regField_same, extract_regField_other, imm16At, imm16Field, extract_lowField_same, extract_lowField_above]
    simp (disch := decide) only [extract_const, BitVec.zero_or, BitVec.or_zero, ofNat_three_toNat]
    exact congrArg _ (imm16_back h)

theorem WordFitsRow.wli256 (rd : QReg) (imm : Nat) :
    WordFitsRow.Statement (.wli256 rd imm) := by
  refine wordFitsRow_of_row 1 (by decide) ?_ fun h => ?_
  · show (0x09000000#32 ||| _ ||| _) &&& 0xFF8F0000#32 = 0x09000000#32
    simp (disch := decide) only [BitVec.and_or_distrib_right, regField_masked, imm16Field, lowField_masked]
    decide
  · show Instr.wli256 (regAt _ 20) (imm16At _) = _
    simp (disch := decide) only [regAt, encode, BitVec.extractLsb'_or, extract_regField_same, extract_regField_other, imm16At, imm16Field, extract_lowField_same, extract_lowField_above]
    simp (disch := decide) only [extract_const, BitVec.zero_or, BitVec.or_zero, ofNat_three_toNat]
    exact congrArg _ (imm16_back h)

theorem WordFitsRow.wli512 (rd : OReg) (imm : Nat) :
    WordFitsRow.Statement (.wli512 rd imm) := by
  refine wordFitsRow_of_row 2 (by decide) ?_ fun h => ?_
  · show (0x0A000000#32 ||| _ ||| _) &&& 0xFF8F0000#32 = 0x0A000000#32
    simp (disch := decide) only [BitVec.and_or_distrib_right, regField_masked, imm16Field, lowField_masked]
    decide
  · show Instr.wli512 (regAt _ 20) (imm16At _) = _
    simp (disch := decide) only [regAt, encode, BitVec.extractLsb'_or, extract_regField_same, extract_regField_other, imm16At, imm16Field, extract_lowField_same, extract_lowField_above]
    simp (disch := decide) only [extract_const, BitVec.zero_or, BitVec.or_zero, ofNat_three_toNat]
    exact congrArg _ (imm16_back h)

theorem WordFitsRow.add128 (rd : DReg) (ra : DReg) (rb : DReg) :
    WordFitsRow.Statement (.add128 rd ra rb) := by
  refine wordFitsRow_of_row 3 (by decide) ?_ fun _ => ?_
  · show (0x10000000#32 ||| _ ||| _ ||| _) &&& 0xFF888FFF#32 = 0x10000000#32
    simp (disch := decide) only [BitVec.and_or_distrib_right, regField_masked]
    decide
  · show Instr.add128 (regAt _ 20) (regAt _ 16) (regAt _ 12) = _
    simp (disch := decide) only [regAt, encode, BitVec.extractLsb'_or, extract_regField_same, extract_regField_other]
    simp (disch := decide) only [extract_const, BitVec.zero_or, BitVec.or_zero, ofNat_three_toNat]

theorem WordFitsRow.add256 (rd : QReg) (ra : QReg) (rb : QReg) :
    WordFitsRow.Statement (.add256 rd ra rb) := by
  refine wordFitsRow_of_row 4 (by decide) ?_ fun _ => ?_
  · show (0x11000000#32 ||| _ ||| _ ||| _) &&& 0xFF888FFF#32 = 0x11000000#32
    simp (disch := decide) only [BitVec.and_or_distrib_right, regField_masked]
    decide
  · show Instr.add256 (regAt _ 20) (regAt _ 16) (regAt _ 12) = _
    simp (disch := decide) only [regAt, encode, BitVec.extractLsb'_or, extract_regField_same, extract_regField_other]
    simp (disch := decide) only [extract_const, BitVec.zero_or, BitVec.or_zero, ofNat_three_toNat]

theorem WordFitsRow.add512 (rd : OReg) (ra : OReg) (rb : OReg) :
    WordFitsRow.Statement (.add512 rd ra rb) := by
  refine wordFitsRow_of_row 5 (by decide) ?_ fun _ => ?_
  · show (0x12000000#32 ||| _ ||| _ ||| _) &&& 0xFF888FFF#32 = 0x12000000#32
    simp (disch := decide) only [BitVec.and_or_distrib_right, regField_masked]
    decide
  · show Instr.add512 (regAt _ 20) (regAt _ 16) (regAt _ 12) = _
    simp (disch := decide) only [regAt, encode, BitVec.extractLsb'_or, extract_regField_same, extract_regField_other]
    simp (disch := decide) only [extract_const, BitVec.zero_or, BitVec.or_zero, ofNat_three_toNat]

theorem WordFitsRow.sub128 (rd : DReg) (ra : DReg) (rb : DReg) :
    WordFitsRow.Statement (.sub128 rd ra rb) := by
  refine wordFitsRow_of_row 6 (by decide) ?_ fun _ => ?_
  · show (0x14000000#32 ||| _ ||| _ ||| _) &&& 0xFF888FFF#32 = 0x14000000#32
    simp (disch := decide) only [BitVec.and_or_distrib_right, regField_masked]
    decide
  · show Instr.sub128 (regAt _ 20) (regAt _ 16) (regAt _ 12) = _
    simp (disch := decide) only [regAt, encode, BitVec.extractLsb'_or, extract_regField_same, extract_regField_other]
    simp (disch := decide) only [extract_const, BitVec.zero_or, BitVec.or_zero, ofNat_three_toNat]

theorem WordFitsRow.sub256 (rd : QReg) (ra : QReg) (rb : QReg) :
    WordFitsRow.Statement (.sub256 rd ra rb) := by
  refine wordFitsRow_of_row 7 (by decide) ?_ fun _ => ?_
  · show (0x15000000#32 ||| _ ||| _ ||| _) &&& 0xFF888FFF#32 = 0x15000000#32
    simp (disch := decide) only [BitVec.and_or_distrib_right, regField_masked]
    decide
  · show Instr.sub256 (regAt _ 20) (regAt _ 16) (regAt _ 12) = _
    simp (disch := decide) only [regAt, encode, BitVec.extractLsb'_or, extract_regField_same, extract_regField_other]
    simp (disch := decide) only [extract_const, BitVec.zero_or, BitVec.or_zero, ofNat_three_toNat]

theorem WordFitsRow.sub512 (rd : OReg) (ra : OReg) (rb : OReg) :
    WordFitsRow.Statement (.sub512 rd ra rb) := by
  refine wordFitsRow_of_row 8 (by decide) ?_ fun _ => ?_
  · show (0x16000000#32 ||| _ ||| _ ||| _) &&& 0xFF888FFF#32 = 0x16000000#32
    simp (disch := decide) only [BitVec.and_or_distrib_right, regField_masked]
    decide
  · show Instr.sub512 (regAt _ 20) (regAt _ 16) (regAt _ 12) = _
    simp (disch := decide) only [regAt, encode, BitVec.extractLsb'_or, extract_regField_same, extract_regField_other]
    simp (disch := decide) only [extract_const, BitVec.zero_or, BitVec.or_zero, ofNat_three_toNat]

theorem WordFitsRow.mulw128 (rd : QReg) (ra : DReg) (rb : DReg) :
    WordFitsRow.Statement (.mulw128 rd ra rb) := by
  refine wordFitsRow_of_row 9 (by decide) ?_ fun _ => ?_
  · show (0x18000000#32 ||| _ ||| _ ||| _) &&& 0xFF888FFF#32 = 0x18000000#32
    simp (disch := decide) only [BitVec.and_or_distrib_right, regField_masked]
    decide
  · show Instr.mulw128 (regAt _ 20) (regAt _ 16) (regAt _ 12) = _
    simp (disch := decide) only [regAt, encode, BitVec.extractLsb'_or, extract_regField_same, extract_regField_other]
    simp (disch := decide) only [extract_const, BitVec.zero_or, BitVec.or_zero, ofNat_three_toNat]

theorem WordFitsRow.mulw256 (rd : OReg) (ra : QReg) (rb : QReg) :
    WordFitsRow.Statement (.mulw256 rd ra rb) := by
  refine wordFitsRow_of_row 10 (by decide) ?_ fun _ => ?_
  · show (0x19000000#32 ||| _ ||| _ ||| _) &&& 0xFF888FFF#32 = 0x19000000#32
    simp (disch := decide) only [BitVec.and_or_distrib_right, regField_masked]
    decide
  · show Instr.mulw256 (regAt _ 20) (regAt _ 16) (regAt _ 12) = _
    simp (disch := decide) only [regAt, encode, BitVec.extractLsb'_or, extract_regField_same, extract_regField_other]
    simp (disch := decide) only [extract_const, BitVec.zero_or, BitVec.or_zero, ofNat_three_toNat]

theorem WordFitsRow.div128 (rd : DReg) (ra : DReg) (rb : DReg) :
    WordFitsRow.Statement (.div128 rd ra rb) := by
  refine wordFitsRow_of_row 11 (by decide) ?_ fun _ => ?_
  · show (0x1C000000#32 ||| _ ||| _ ||| _) &&& 0xFF888FFF#32 = 0x1C000000#32
    simp (disch := decide) only [BitVec.and_or_distrib_right, regField_masked]
    decide
  · show Instr.div128 (regAt _ 20) (regAt _ 16) (regAt _ 12) = _
    simp (disch := decide) only [regAt, encode, BitVec.extractLsb'_or, extract_regField_same, extract_regField_other]
    simp (disch := decide) only [extract_const, BitVec.zero_or, BitVec.or_zero, ofNat_three_toNat]

theorem WordFitsRow.div256 (rd : QReg) (ra : QReg) (rb : QReg) :
    WordFitsRow.Statement (.div256 rd ra rb) := by
  refine wordFitsRow_of_row 12 (by decide) ?_ fun _ => ?_
  · show (0x1D000000#32 ||| _ ||| _ ||| _) &&& 0xFF888FFF#32 = 0x1D000000#32
    simp (disch := decide) only [BitVec.and_or_distrib_right, regField_masked]
    decide
  · show Instr.div256 (regAt _ 20) (regAt _ 16) (regAt _ 12) = _
    simp (disch := decide) only [regAt, encode, BitVec.extractLsb'_or, extract_regField_same, extract_regField_other]
    simp (disch := decide) only [extract_const, BitVec.zero_or, BitVec.or_zero, ofNat_three_toNat]

theorem WordFitsRow.div512 (rd : OReg) (ra : OReg) (rb : OReg) :
    WordFitsRow.Statement (.div512 rd ra rb) := by
  refine wordFitsRow_of_row 13 (by decide) ?_ fun _ => ?_
  · show (0x1E000000#32 ||| _ ||| _ ||| _) &&& 0xFF888FFF#32 = 0x1E000000#32
    simp (disch := decide) only [BitVec.and_or_distrib_right, regField_masked]
    decide
  · show Instr.div512 (regAt _ 20) (regAt _ 16) (regAt _ 12) = _
    simp (disch := decide) only [regAt, encode, BitVec.extractLsb'_or, extract_regField_same, extract_regField_other]
    simp (disch := decide) only [extract_const, BitVec.zero_or, BitVec.or_zero, ofNat_three_toNat]

theorem WordFitsRow.shl128 (rd : DReg) (ra : DReg) (shamt : Nat) :
    WordFitsRow.Statement (.shl128 rd ra shamt) := by
  refine wordFitsRow_of_row 14 (by decide) ?_ fun h => ?_
  · show (0x20000000#32 ||| _ ||| _ ||| _) &&& 0xFF88FC00#32 = 0x20000000#32
    simp (disch := decide) only [BitVec.and_or_distrib_right, regField_masked, shamtField, lowField_masked]
    decide
  · show Instr.shl128 (regAt _ 20) (regAt _ 16) (shamtAt _) = _
    simp (disch := decide) only [regAt, encode, BitVec.extractLsb'_or, extract_regField_same, extract_regField_other, shamtAt, shamtField, extract_lowField_same, extract_lowField_above]
    simp (disch := decide) only [extract_const, BitVec.zero_or, BitVec.or_zero, ofNat_three_toNat]
    exact congrArg _ (shamt_back h)

theorem WordFitsRow.shl256 (rd : QReg) (ra : QReg) (shamt : Nat) :
    WordFitsRow.Statement (.shl256 rd ra shamt) := by
  refine wordFitsRow_of_row 15 (by decide) ?_ fun h => ?_
  · show (0x21000000#32 ||| _ ||| _ ||| _) &&& 0xFF88FC00#32 = 0x21000000#32
    simp (disch := decide) only [BitVec.and_or_distrib_right, regField_masked, shamtField, lowField_masked]
    decide
  · show Instr.shl256 (regAt _ 20) (regAt _ 16) (shamtAt _) = _
    simp (disch := decide) only [regAt, encode, BitVec.extractLsb'_or, extract_regField_same, extract_regField_other, shamtAt, shamtField, extract_lowField_same, extract_lowField_above]
    simp (disch := decide) only [extract_const, BitVec.zero_or, BitVec.or_zero, ofNat_three_toNat]
    exact congrArg _ (shamt_back h)

theorem WordFitsRow.shl512 (rd : OReg) (ra : OReg) (shamt : Nat) :
    WordFitsRow.Statement (.shl512 rd ra shamt) := by
  refine wordFitsRow_of_row 16 (by decide) ?_ fun h => ?_
  · show (0x22000000#32 ||| _ ||| _ ||| _) &&& 0xFF88FC00#32 = 0x22000000#32
    simp (disch := decide) only [BitVec.and_or_distrib_right, regField_masked, shamtField, lowField_masked]
    decide
  · show Instr.shl512 (regAt _ 20) (regAt _ 16) (shamtAt _) = _
    simp (disch := decide) only [regAt, encode, BitVec.extractLsb'_or, extract_regField_same, extract_regField_other, shamtAt, shamtField, extract_lowField_same, extract_lowField_above]
    simp (disch := decide) only [extract_const, BitVec.zero_or, BitVec.or_zero, ofNat_three_toNat]
    exact congrArg _ (shamt_back h)

theorem WordFitsRow.shr128 (rd : DReg) (ra : DReg) (shamt : Nat) :
    WordFitsRow.Statement (.shr128 rd ra shamt) := by
  refine wordFitsRow_of_row 17 (by decide) ?_ fun h => ?_
  · show (0x24000000#32 ||| _ ||| _ ||| _) &&& 0xFF88FC00#32 = 0x24000000#32
    simp (disch := decide) only [BitVec.and_or_distrib_right, regField_masked, shamtField, lowField_masked]
    decide
  · show Instr.shr128 (regAt _ 20) (regAt _ 16) (shamtAt _) = _
    simp (disch := decide) only [regAt, encode, BitVec.extractLsb'_or, extract_regField_same, extract_regField_other, shamtAt, shamtField, extract_lowField_same, extract_lowField_above]
    simp (disch := decide) only [extract_const, BitVec.zero_or, BitVec.or_zero, ofNat_three_toNat]
    exact congrArg _ (shamt_back h)

theorem WordFitsRow.shr256 (rd : QReg) (ra : QReg) (shamt : Nat) :
    WordFitsRow.Statement (.shr256 rd ra shamt) := by
  refine wordFitsRow_of_row 18 (by decide) ?_ fun h => ?_
  · show (0x25000000#32 ||| _ ||| _ ||| _) &&& 0xFF88FC00#32 = 0x25000000#32
    simp (disch := decide) only [BitVec.and_or_distrib_right, regField_masked, shamtField, lowField_masked]
    decide
  · show Instr.shr256 (regAt _ 20) (regAt _ 16) (shamtAt _) = _
    simp (disch := decide) only [regAt, encode, BitVec.extractLsb'_or, extract_regField_same, extract_regField_other, shamtAt, shamtField, extract_lowField_same, extract_lowField_above]
    simp (disch := decide) only [extract_const, BitVec.zero_or, BitVec.or_zero, ofNat_three_toNat]
    exact congrArg _ (shamt_back h)

theorem WordFitsRow.shr512 (rd : OReg) (ra : OReg) (shamt : Nat) :
    WordFitsRow.Statement (.shr512 rd ra shamt) := by
  refine wordFitsRow_of_row 19 (by decide) ?_ fun h => ?_
  · show (0x26000000#32 ||| _ ||| _ ||| _) &&& 0xFF88FC00#32 = 0x26000000#32
    simp (disch := decide) only [BitVec.and_or_distrib_right, regField_masked, shamtField, lowField_masked]
    decide
  · show Instr.shr512 (regAt _ 20) (regAt _ 16) (shamtAt _) = _
    simp (disch := decide) only [regAt, encode, BitVec.extractLsb'_or, extract_regField_same, extract_regField_other, shamtAt, shamtField, extract_lowField_same, extract_lowField_above]
    simp (disch := decide) only [extract_const, BitVec.zero_or, BitVec.or_zero, ofNat_three_toNat]
    exact congrArg _ (shamt_back h)

theorem WordFitsRow.cmp128 (ra : DReg) (rb : DReg) :
    WordFitsRow.Statement (.cmp128 ra rb) := by
  refine wordFitsRow_of_row 20 (by decide) ?_ fun _ => ?_
  · show (0x28000000#32 ||| _ ||| _) &&& 0xFFF88FFF#32 = 0x28000000#32
    simp (disch := decide) only [BitVec.and_or_distrib_right, regField_masked]
    decide
  · show Instr.cmp128 (regAt _ 16) (regAt _ 12) = _
    simp (disch := decide) only [regAt, encode, BitVec.extractLsb'_or, extract_regField_same, extract_regField_other]
    simp (disch := decide) only [extract_const, BitVec.zero_or, BitVec.or_zero, ofNat_three_toNat]

theorem WordFitsRow.cmp256 (ra : QReg) (rb : QReg) :
    WordFitsRow.Statement (.cmp256 ra rb) := by
  refine wordFitsRow_of_row 21 (by decide) ?_ fun _ => ?_
  · show (0x29000000#32 ||| _ ||| _) &&& 0xFFF88FFF#32 = 0x29000000#32
    simp (disch := decide) only [BitVec.and_or_distrib_right, regField_masked]
    decide
  · show Instr.cmp256 (regAt _ 16) (regAt _ 12) = _
    simp (disch := decide) only [regAt, encode, BitVec.extractLsb'_or, extract_regField_same, extract_regField_other]
    simp (disch := decide) only [extract_const, BitVec.zero_or, BitVec.or_zero, ofNat_three_toNat]

theorem WordFitsRow.cmp512 (ra : OReg) (rb : OReg) :
    WordFitsRow.Statement (.cmp512 ra rb) := by
  refine wordFitsRow_of_row 22 (by decide) ?_ fun _ => ?_
  · show (0x2A000000#32 ||| _ ||| _) &&& 0xFFF88FFF#32 = 0x2A000000#32
    simp (disch := decide) only [BitVec.and_or_distrib_right, regField_masked]
    decide
  · show Instr.cmp512 (regAt _ 16) (regAt _ 12) = _
    simp (disch := decide) only [regAt, encode, BitVec.extractLsb'_or, extract_regField_same, extract_regField_other]
    simp (disch := decide) only [extract_const, BitVec.zero_or, BitVec.or_zero, ofNat_three_toNat]

theorem WordFitsRow.upcDq (rd : QReg) (ra : DReg) :
    WordFitsRow.Statement (.upcDq rd ra) := by
  refine wordFitsRow_of_row 23 (by decide) ?_ fun _ => ?_
  · show (0x2C000000#32 ||| _ ||| _) &&& 0xFF88FFFF#32 = 0x2C000000#32
    simp (disch := decide) only [BitVec.and_or_distrib_right, regField_masked]
    decide
  · show Instr.upcDq (regAt _ 20) (regAt _ 16) = _
    simp (disch := decide) only [regAt, encode, BitVec.extractLsb'_or, extract_regField_same, extract_regField_other]
    simp (disch := decide) only [extract_const, BitVec.zero_or, BitVec.or_zero, ofNat_three_toNat]

theorem WordFitsRow.upcQo (rd : OReg) (ra : QReg) :
    WordFitsRow.Statement (.upcQo rd ra) := by
  refine wordFitsRow_of_row 24 (by decide) ?_ fun _ => ?_
  · show (0x2D000000#32 ||| _ ||| _) &&& 0xFF88FFFF#32 = 0x2D000000#32
    simp (disch := decide) only [BitVec.and_or_distrib_right, regField_masked]
    decide
  · show Instr.upcQo (regAt _ 20) (regAt _ 16) = _
    simp (disch := decide) only [regAt, encode, BitVec.extractLsb'_or, extract_regField_same, extract_regField_other]
    simp (disch := decide) only [extract_const, BitVec.zero_or, BitVec.or_zero, ofNat_three_toNat]

theorem WordFitsRow.upcDo (rd : OReg) (ra : DReg) :
    WordFitsRow.Statement (.upcDo rd ra) := by
  refine wordFitsRow_of_row 25 (by decide) ?_ fun _ => ?_
  · show (0x2E000000#32 ||| _ ||| _) &&& 0xFF88FFFF#32 = 0x2E000000#32
    simp (disch := decide) only [BitVec.and_or_distrib_right, regField_masked]
    decide
  · show Instr.upcDo (regAt _ 20) (regAt _ 16) = _
    simp (disch := decide) only [regAt, encode, BitVec.extractLsb'_or, extract_regField_same, extract_regField_other]
    simp (disch := decide) only [extract_const, BitVec.zero_or, BitVec.or_zero, ofNat_three_toNat]

theorem WordFitsRow.dncQd (rd : DReg) (ra : QReg) :
    WordFitsRow.Statement (.dncQd rd ra) := by
  refine wordFitsRow_of_row 26 (by decide) ?_ fun _ => ?_
  · show (0x30000000#32 ||| _ ||| _) &&& 0xFF88FFFF#32 = 0x30000000#32
    simp (disch := decide) only [BitVec.and_or_distrib_right, regField_masked]
    decide
  · show Instr.dncQd (regAt _ 20) (regAt _ 16) = _
    simp (disch := decide) only [regAt, encode, BitVec.extractLsb'_or, extract_regField_same, extract_regField_other]
    simp (disch := decide) only [extract_const, BitVec.zero_or, BitVec.or_zero, ofNat_three_toNat]

theorem WordFitsRow.dncOq (rd : QReg) (ra : OReg) :
    WordFitsRow.Statement (.dncOq rd ra) := by
  refine wordFitsRow_of_row 27 (by decide) ?_ fun _ => ?_
  · show (0x31000000#32 ||| _ ||| _) &&& 0xFF88FFFF#32 = 0x31000000#32
    simp (disch := decide) only [BitVec.and_or_distrib_right, regField_masked]
    decide
  · show Instr.dncOq (regAt _ 20) (regAt _ 16) = _
    simp (disch := decide) only [regAt, encode, BitVec.extractLsb'_or, extract_regField_same, extract_regField_other]
    simp (disch := decide) only [extract_const, BitVec.zero_or, BitVec.or_zero, ofNat_three_toNat]

theorem WordFitsRow.dncOd (rd : DReg) (ra : OReg) :
    WordFitsRow.Statement (.dncOd rd ra) := by
  refine wordFitsRow_of_row 28 (by decide) ?_ fun _ => ?_
  · show (0x32000000#32 ||| _ ||| _) &&& 0xFF88FFFF#32 = 0x32000000#32
    simp (disch := decide) only [BitVec.and_or_distrib_right, regField_masked]
    decide
  · show Instr.dncOd (regAt _ 20) (regAt _ 16) = _
    simp (disch := decide) only [regAt, encode, BitVec.extractLsb'_or, extract_regField_same, extract_regField_other]
    simp (disch := decide) only [extract_const, BitVec.zero_or, BitVec.or_zero, ofNat_three_toNat]

theorem WordFitsRow.snrQd (rd : DReg) (ra : QReg) :
    WordFitsRow.Statement (.snrQd rd ra) := by
  refine wordFitsRow_of_row 29 (by decide) ?_ fun _ => ?_
  · show (0x34000000#32 ||| _ ||| _) &&& 0xFF88FFFF#32 = 0x34000000#32
    simp (disch := decide) only [BitVec.and_or_distrib_right, regField_masked]
    decide
  · show Instr.snrQd (regAt _ 20) (regAt _ 16) = _
    simp (disch := decide) only [regAt, encode, BitVec.extractLsb'_or, extract_regField_same, extract_regField_other]
    simp (disch := decide) only [extract_const, BitVec.zero_or, BitVec.or_zero, ofNat_three_toNat]

theorem WordFitsRow.snrOq (rd : QReg) (ra : OReg) :
    WordFitsRow.Statement (.snrOq rd ra) := by
  refine wordFitsRow_of_row 30 (by decide) ?_ fun _ => ?_
  · show (0x35000000#32 ||| _ ||| _) &&& 0xFF88FFFF#32 = 0x35000000#32
    simp (disch := decide) only [BitVec.and_or_distrib_right, regField_masked]
    decide
  · show Instr.snrOq (regAt _ 20) (regAt _ 16) = _
    simp (disch := decide) only [regAt, encode, BitVec.extractLsb'_or, extract_regField_same, extract_regField_other]
    simp (disch := decide) only [extract_const, BitVec.zero_or, BitVec.or_zero, ofNat_three_toNat]

theorem WordFitsRow.snrOd (rd : DReg) (ra : OReg) :
    WordFitsRow.Statement (.snrOd rd ra) := by
  refine wordFitsRow_of_row 31 (by decide) ?_ fun _ => ?_
  · show (0x36000000#32 ||| _ ||| _) &&& 0xFF88FFFF#32 = 0x36000000#32
    simp (disch := decide) only [BitVec.and_or_distrib_right, regField_masked]
    decide
  · show Instr.snrOd (regAt _ 20) (regAt _ 16) = _
    simp (disch := decide) only [regAt, encode, BitVec.extractLsb'_or, extract_regField_same, extract_regField_other]
    simp (disch := decide) only [extract_const, BitVec.zero_or, BitVec.or_zero, ofNat_three_toNat]

theorem WordFitsRow.mdf128 (rd : DReg) (rv : DReg) (rn : DReg) (rm : DReg) :
    WordFitsRow.Statement (.mdf128 rd rv rn rm) := by
  refine wordFitsRow_of_row 32 (by decide) ?_ fun _ => ?_
  · show (0x38000000#32 ||| _ ||| _ ||| _ ||| _) &&& 0xFF8888FF#32 = 0x38000000#32
    simp (disch := decide) only [BitVec.and_or_distrib_right, regField_masked]
    decide
  · show Instr.mdf128 (regAt _ 20) (regAt _ 16) (regAt _ 12) (regAt _ 8) = _
    simp (disch := decide) only [regAt, encode, BitVec.extractLsb'_or, extract_regField_same, extract_regField_other]
    simp (disch := decide) only [extract_const, BitVec.zero_or, BitVec.or_zero, ofNat_three_toNat]

theorem WordFitsRow.mdf256 (rd : QReg) (rv : QReg) (rn : QReg) (rm : QReg) :
    WordFitsRow.Statement (.mdf256 rd rv rn rm) := by
  refine wordFitsRow_of_row 33 (by decide) ?_ fun _ => ?_
  · show (0x39000000#32 ||| _ ||| _ ||| _ ||| _) &&& 0xFF8888FF#32 = 0x39000000#32
    simp (disch := decide) only [BitVec.and_or_distrib_right, regField_masked]
    decide
  · show Instr.mdf256 (regAt _ 20) (regAt _ 16) (regAt _ 12) (regAt _ 8) = _
    simp (disch := decide) only [regAt, encode, BitVec.extractLsb'_or, extract_regField_same, extract_regField_other]
    simp (disch := decide) only [extract_const, BitVec.zero_or, BitVec.or_zero, ofNat_three_toNat]

theorem WordFitsRow.mdc128 (rd : DReg) (rv : DReg) (rn : DReg) (rm : DReg) :
    WordFitsRow.Statement (.mdc128 rd rv rn rm) := by
  refine wordFitsRow_of_row 34 (by decide) ?_ fun _ => ?_
  · show (0x3C000000#32 ||| _ ||| _ ||| _ ||| _) &&& 0xFF8888FF#32 = 0x3C000000#32
    simp (disch := decide) only [BitVec.and_or_distrib_right, regField_masked]
    decide
  · show Instr.mdc128 (regAt _ 20) (regAt _ 16) (regAt _ 12) (regAt _ 8) = _
    simp (disch := decide) only [regAt, encode, BitVec.extractLsb'_or, extract_regField_same, extract_regField_other]
    simp (disch := decide) only [extract_const, BitVec.zero_or, BitVec.or_zero, ofNat_three_toNat]

theorem WordFitsRow.mdc256 (rd : QReg) (rv : QReg) (rn : QReg) (rm : QReg) :
    WordFitsRow.Statement (.mdc256 rd rv rn rm) := by
  refine wordFitsRow_of_row 35 (by decide) ?_ fun _ => ?_
  · show (0x3D000000#32 ||| _ ||| _ ||| _ ||| _) &&& 0xFF8888FF#32 = 0x3D000000#32
    simp (disch := decide) only [BitVec.and_or_distrib_right, regField_masked]
    decide
  · show Instr.mdc256 (regAt _ 20) (regAt _ 16) (regAt _ 12) (regAt _ 8) = _
    simp (disch := decide) only [regAt, encode, BitVec.extractLsb'_or, extract_regField_same, extract_regField_other]
    simp (disch := decide) only [extract_const, BitVec.zero_or, BitVec.or_zero, ofNat_three_toNat]

theorem WordFitsRow.divn128 (rd : DReg) (ra : QReg) (rb : DReg) :
    WordFitsRow.Statement (.divn128 rd ra rb) := by
  refine wordFitsRow_of_row 36 (by decide) ?_ fun _ => ?_
  · show (0x40000000#32 ||| _ ||| _ ||| _) &&& 0xFF888FFF#32 = 0x40000000#32
    simp (disch := decide) only [BitVec.and_or_distrib_right, regField_masked]
    decide
  · show Instr.divn128 (regAt _ 20) (regAt _ 16) (regAt _ 12) = _
    simp (disch := decide) only [regAt, encode, BitVec.extractLsb'_or, extract_regField_same, extract_regField_other]
    simp (disch := decide) only [extract_const, BitVec.zero_or, BitVec.or_zero, ofNat_three_toNat]

theorem WordFitsRow.divn256 (rd : QReg) (ra : OReg) (rb : QReg) :
    WordFitsRow.Statement (.divn256 rd ra rb) := by
  refine wordFitsRow_of_row 37 (by decide) ?_ fun _ => ?_
  · show (0x41000000#32 ||| _ ||| _ ||| _) &&& 0xFF888FFF#32 = 0x41000000#32
    simp (disch := decide) only [BitVec.and_or_distrib_right, regField_masked]
    decide
  · show Instr.divn256 (regAt _ 20) (regAt _ 16) (regAt _ 12) = _
    simp (disch := decide) only [regAt, encode, BitVec.extractLsb'_or, extract_regField_same, extract_regField_other]
    simp (disch := decide) only [extract_const, BitVec.zero_or, BitVec.or_zero, ofNat_three_toNat]

theorem WordFitsRow.t2sp (rd : DReg) (ra : TReg) :
    WordFitsRow.Statement (.t2sp rd ra) := by
  refine wordFitsRow_of_row 38 (by decide) ?_ fun _ => ?_
  · show (0x50000000#32 ||| _ ||| _) &&& 0xFF88FFFF#32 = 0x50000000#32
    simp (disch := decide) only [BitVec.and_or_distrib_right, regField_masked]
    decide
  · show Instr.t2sp (regAt _ 20) (regAt _ 16) = _
    simp (disch := decide) only [regAt, encode, BitVec.extractLsb'_or, extract_regField_same, extract_regField_other]
    simp (disch := decide) only [extract_const, BitVec.zero_or, BitVec.or_zero, ofNat_three_toNat]

theorem WordFitsRow.sp2t (rd : TReg) (ra : DReg) :
    WordFitsRow.Statement (.sp2t rd ra) := by
  refine wordFitsRow_of_row 39 (by decide) ?_ fun _ => ?_
  · show (0x54000000#32 ||| _ ||| _) &&& 0xFF88FFFF#32 = 0x54000000#32
    simp (disch := decide) only [BitVec.and_or_distrib_right, regField_masked]
    decide
  · show Instr.sp2t (regAt _ 20) (regAt _ 16) = _
    simp (disch := decide) only [regAt, encode, BitVec.extractLsb'_or, extract_regField_same, extract_regField_other]
    simp (disch := decide) only [extract_const, BitVec.zero_or, BitVec.or_zero, ofNat_three_toNat]

theorem WordFitsRow.tli (rd : TReg) (imm : Int) :
    WordFitsRow.Statement (.tli rd imm) := by
  refine wordFitsRow_of_row 40 (by decide) ?_ fun h => ?_
  · show (0x58000000#32 ||| _ ||| _) &&& 0xFF800000#32 = 0x58000000#32
    simp (disch := decide) only [BitVec.and_or_distrib_right, regField_masked, imm20Field, lowField_masked]
    decide
  · show Instr.tli (regAt _ 20) (imm20At _) = _
    simp (disch := decide) only [regAt, encode, BitVec.extractLsb'_or, extract_regField_same, extract_regField_other, imm20At, imm20Field, extract_lowField_same, extract_lowField_above]
    simp (disch := decide) only [extract_const, BitVec.zero_or, BitVec.or_zero, ofNat_three_toNat]
    exact congrArg _ (imm20_back h)

theorem WordFitsRow.tas (rd : TReg) (ra : TReg) :
    WordFitsRow.Statement (.tas rd ra) := by
  refine wordFitsRow_of_row 41 (by decide) ?_ fun _ => ?_
  · show (0x5C000000#32 ||| _ ||| _) &&& 0xFF88FFFF#32 = 0x5C000000#32
    simp (disch := decide) only [BitVec.and_or_distrib_right, regField_masked]
    decide
  · show Instr.tas (regAt _ 20) (regAt _ 16) = _
    simp (disch := decide) only [regAt, encode, BitVec.extractLsb'_or, extract_regField_same, extract_regField_other]
    simp (disch := decide) only [extract_const, BitVec.zero_or, BitVec.or_zero, ofNat_three_toNat]

theorem WordFitsRow.bmset (ra : TReg) :
    WordFitsRow.Statement (.bmset ra) := by
  refine wordFitsRow_of_row 42 (by decide) ?_ fun _ => ?_
  · show (0x60000000#32 ||| _) &&& 0xFFF8FFFF#32 = 0x60000000#32
    simp (disch := decide) only [BitVec.and_or_distrib_right, regField_masked]
    decide
  · show Instr.bmset (regAt _ 16) = _
    simp (disch := decide) only [regAt, encode, BitVec.extractLsb'_or, extract_regField_same]
    simp (disch := decide) only [extract_const, BitVec.zero_or, ofNat_three_toNat]

theorem WordFitsRow.bmclr (ra : TReg) :
    WordFitsRow.Statement (.bmclr ra) := by
  refine wordFitsRow_of_row 43 (by decide) ?_ fun _ => ?_
  · show (0x64000000#32 ||| _) &&& 0xFFF8FFFF#32 = 0x64000000#32
    simp (disch := decide) only [BitVec.and_or_distrib_right, regField_masked]
    decide
  · show Instr.bmclr (regAt _ 16) = _
    simp (disch := decide) only [regAt, encode, BitVec.extractLsb'_or, extract_regField_same]
    simp (disch := decide) only [extract_const, BitVec.zero_or, ofNat_three_toNat]

theorem WordFitsRow.bmtst (ra : TReg) :
    WordFitsRow.Statement (.bmtst ra) := by
  refine wordFitsRow_of_row 44 (by decide) ?_ fun _ => ?_
  · show (0x68000000#32 ||| _) &&& 0xFFF8FFFF#32 = 0x68000000#32
    simp (disch := decide) only [BitVec.and_or_distrib_right, regField_masked]
    decide
  · show Instr.bmtst (regAt _ 16) = _
    simp (disch := decide) only [regAt, encode, BitVec.extractLsb'_or, extract_regField_same]
    simp (disch := decide) only [extract_const, BitVec.zero_or, ofNat_three_toNat]

theorem WordFitsRow.bmnext (rd : TReg) (ra : TReg) (dir : Direction) (incl : Bool) :
    WordFitsRow.Statement (.bmnext rd ra dir incl) := by
  refine wordFitsRow_of_row 45 (by decide) ?_ fun _ => ?_
  · show (0x6C000000#32 ||| _ ||| _ ||| _ ||| _) &&& 0xFF88FFFC#32 = 0x6C000000#32
    simp (disch := decide) only [BitVec.and_or_distrib_right, regField_masked]
    cases dir <;> cases incl <;> decide
  · show Instr.bmnext (regAt _ 20) (regAt _ 16) (directionAt _) (inclusiveAt _) = _
    revert rd ra
    cases dir <;> cases incl <;> decide

theorem WordFitsRow.bmaddr (ra : TReg) :
    WordFitsRow.Statement (.bmaddr ra) := by
  refine wordFitsRow_of_row 46 (by decide) ?_ fun _ => ?_
  · show (0x70000000#32 ||| _) &&& 0xFFF8FFFF#32 = 0x70000000#32
    simp (disch := decide) only [BitVec.and_or_distrib_right, regField_masked]
    decide
  · show Instr.bmaddr (regAt _ 16) = _
    simp (disch := decide) only [regAt, encode, BitVec.extractLsb'_or, extract_regField_same]
    simp (disch := decide) only [extract_const, BitVec.zero_or, ofNat_three_toNat]

theorem WordFitsRow.nop :
    WordFitsRow.Statement (.nop) := by
  exact wordFitsRow_of_row 47 (by decide) (by decide) fun _ => rfl

end Sys2Proof.Laws
end

