-- ==== Sys2Proof/Laws/Port.lean ====
section
/-! SUPPORT. Laws/Port.lean: what a step does with an accepted port access (20_memory.md R62 to R69). -/

namespace Sys2Proof.Machine

/-- A step whose next event is a write of a mapped offset does what `portWrite` says. -/
theorem step_write {s s' : State} {a : Nat} {v : PortWord} {rest : List HostEvent} {x : PortTarget}
    (h : s.pending = .write a 8 v :: rest) (ha : a % 8 = 0) (hx : portTarget s.cfg a = some x)
    (he : portWrite (s.took rest) v x = .accepted s') : step s = .next s' := by
  unfold step
  simp [h, hostEffect, accessTarget, ha, hx, he]

/-- A step whose next event is a read of a mapped offset answers what `portRead` says. -/
theorem step_read {s : State} {a : Nat} {rest : List HostEvent} {x : PortTarget}
    (h : s.pending = .read a 8 :: rest) (ha : a % 8 = 0) (hx : portTarget s.cfg a = some x) :
    step s = .next ((s.took rest).answered (portRead (s.took rest) x)) := by
  unfold step
  simp [h, hostEffect, accessTarget, ha, hx]

/-- A mapped bitmap offset names its word, under the geometry's constraints. -/
theorem portTarget_bitmapWord {c : Config} (hg : Geometry c) {a : Nat}
    (h : bitmapMapped c a = true) : portTarget c a = some (.bitmapWord a) := by
  have h1 := hg.prim_le
  have h2 := hg.side_le
  have h' := h
  simp only [bitmapMapped, Bool.or_eq_true, decide_eq_true_eq] at h'
  unfold portTarget
  rw [if_neg (by omega), if_neg (by omega), if_neg (by omega), if_neg (by omega),
    if_neg (by omega), if_pos ⟨by omega, h⟩]

/-- A limb replaced reads back, and every other limb is kept (20_memory.md R68). -/
theorem limb_withLimb (v j : Nat) (x : PortWord) (j' : Nat) :
    withLimb v j x / 2 ^ (64 * j') % 2 ^ 64 =
      if j' = j then x.toNat else v / 2 ^ (64 * j') % 2 ^ 64 := by
  obtain ⟨P, hP⟩ : ∃ P, P = 2 ^ (64 * j) := ⟨_, rfl⟩
  have hpos : 0 < P := by rw [hP]; positivity
  have hx := x.isLt
  obtain ⟨lo, mid, hi, hv, hlo, hmid⟩ :
      ∃ lo mid hi, v = lo + mid * P + hi * (P * 2 ^ 64) ∧ lo < P ∧ mid < 2 ^ 64 := by
    refine ⟨v % P, v / P % 2 ^ 64, v / P / 2 ^ 64, ?_, Nat.mod_lt _ hpos, Nat.mod_lt _ (by norm_num)⟩
    have h1 := Nat.div_add_mod v P
    have h2 := Nat.div_add_mod (v / P) (2 ^ 64)
    calc v = P * (v / P) + v % P := h1.symm
      _ = P * (2 ^ 64 * (v / P / 2 ^ 64) + v / P % 2 ^ 64) + v % P := by rw [h2]
      _ = _ := by ring
  have hlimb : ∀ m, m < 2 ^ 64 → (lo + m * P + hi * (P * 2 ^ 64)) / P % 2 ^ 64 = m := by
    intro m hm
    rw [show lo + m * P + hi * (P * 2 ^ 64) = lo + P * (m + hi * 2 ^ 64) by ring,
      Nat.add_mul_div_left _ _ hpos, Nat.div_eq_of_lt hlo, zero_add, Nat.add_mul_mod_self_right,
      Nat.mod_eq_of_lt hm]
  have hw : withLimb v j x = lo + x.toNat * P + hi * (P * 2 ^ 64) := by
    unfold withLimb
    rw [← hP, hv, hlimb mid hmid, show lo + mid * P + hi * (P * 2 ^ 64) - mid * P =
      lo + hi * (P * 2 ^ 64) by omega]
    ring
  rw [hw]
  split
  · next h => rw [h, ← hP, hlimb _ hx]
  · next h =>
    rw [hv]
    rcases lt_or_gt_of_ne h with hlt | hgt
    · obtain ⟨d, hd⟩ : ∃ d, P = 2 ^ (64 * j') * (2 ^ 64 * d) :=
        ⟨2 ^ (64 * (j - j' - 1)), by rw [hP, ← pow_add, ← pow_add]; congr 1; omega⟩
      have hlow : ∀ m, (lo + m * P + hi * (P * 2 ^ 64)) / 2 ^ (64 * j') % 2 ^ 64 =
          lo / 2 ^ (64 * j') % 2 ^ 64 := by
        intro m
        rw [show lo + m * P + hi * (P * 2 ^ 64) = lo + P * (m + hi * 2 ^ 64) by ring, hd,
          mul_assoc, Nat.add_mul_div_left _ _ (by positivity), mul_assoc, Nat.add_mul_mod_self_left]
      rw [hlow, hlow]
    · obtain ⟨d, hd⟩ : ∃ d, 2 ^ (64 * j') = P * 2 ^ 64 * d :=
        ⟨2 ^ (64 * (j' - j - 1)), by rw [hP, ← pow_add, ← pow_add]; congr 1; omega⟩
      have hhigh : ∀ m, m < 2 ^ 64 → (lo + m * P + hi * (P * 2 ^ 64)) / 2 ^ (64 * j') = hi / d := by
        intro m hm
        have hsmall : lo + m * P < P * 2 ^ 64 := by nlinarith
        rw [hd, ← Nat.div_div_eq_div_mul, Nat.add_mul_div_right _ _ (by positivity),
          Nat.div_eq_of_lt hsmall, zero_add]
      rw [hhigh _ hx, hhigh _ hmid]

end Sys2Proof.Machine
end

