-- ==== Sys2Proof/Laws/Run.lean ====
section
/-! SUPPORT. Laws/Run.lean: the small laws of runs: how steps compose and where a run stays. -/

namespace Sys2Proof.Machine

@[simp] theorem settle_next (s t : State) : s.settle (.next t) = t := rfl

@[simp] theorem settle_fault (s : State) (e : Fault) : s.settle (.fault e) = s := rfl

@[simp] theorem settle_refused (s : State) (e : Refusal) : s.settle (.refused e) = s := rfl

@[simp] theorem runFor_zero (s : State) : runFor 0 s = s := rfl

/-- A run of `m + n` steps is a run of `m` and then of `n`. -/
theorem runFor_add (m n : Nat) (s : State) : runFor (m + n) s = runFor n (runFor m s) := by
  induction m generalizing s with
  | zero => simp
  | succ m ih =>
    rw [Nat.add_right_comm]
    exact ih _

/-- The last step of a run. -/
theorem runFor_succ (n : Nat) (s : State) :
    runFor (n + 1) s = (runFor n s).settle (step (runFor n s)) := runFor_add n 1 s

/-- A run stays in a state from which there is no step. -/
theorem runFor_stuck {s : State} (h : s.settle (step s) = s) (n : Nat) : runFor n s = s := by
  induction n with
  | zero => rfl
  | succ n ih => rw [runFor_succ, ih, h]

/-- A host that presents nothing more leaves no step (44_system.md R254). -/
theorem step_of_pending_nil {s : State} (h : s.pending = []) : step s = .fault .awaitingHost := by
  unfold step
  rw [h]

@[simp] theorem hostRunFor_zero (h : HostFunction) (s : State) : hostRunFor h 0 s = s := rfl

/-- A run under a host of `m + n` steps is a run of `m` and then of `n`. -/
theorem hostRunFor_add (h : HostFunction) (m n : Nat) (s : State) :
    hostRunFor h (m + n) s = hostRunFor h n (hostRunFor h m s) := by
  induction m generalizing s with
  | zero => simp
  | succ m ih =>
    rw [Nat.add_right_comm]
    exact ih _

/-- The last step of a run under a host. -/
theorem hostRunFor_succ (h : HostFunction) (n : Nat) (s : State) :
    hostRunFor h (n + 1) s = (hostRunFor h n s).settle (hostStep h (hostRunFor h n s)) :=
  hostRunFor_add h n 1 s

/-- What a step under a host can do: the step on the one access the host chose (44_system.md R252). -/
theorem hostStep_cases {h : HostFunction} {s s' : State} (hs : hostStep h s = .next s') :
    ∃ e, h s.observed = some e ∧ step { s with pending := [e] } = .next s' := by
  unfold hostStep at hs
  split at hs
  · simp at hs
  · next e he => exact ⟨e, he, hs⟩

end Sys2Proof.Machine
end

