-- ==== Sys2Proof/Machine/Assembly.lean ====
section
/-! DEFINITION. Assembly.lean: the assembler's spelling of a command (30_encoding.md R101) and the
pseudo-instructions (R102). No rule of the machine reads this file. -/

namespace Sys2Proof.Machine

/-- A register's name: its file's letter and its number (R101). -/
def regName (file : String) (r : Reg) : String := file ++ toString r.val

/-- Operands joined by commas, the mnemonic in front (R101). -/
def asmLine (mnemonic : String) (operands : List String) : String :=
  if operands.isEmpty then mnemonic else mnemonic ++ " " ++ ", ".intercalate operands

/-- The suffix of `BMNEXT`'s four forms (R101). -/
def searchSuffix (dir : Direction) (incl : Bool) : String :=
  (match dir with
    | .up => "UP"
    | .down => "DN") ++ if incl then "I" else ""

/-- The assembler line of a command: destination first, then the sources in field order, then the
immediate (R101). -/
def assemblyText : Instr → String
  | .wli128 rd imm => asmLine "WLI.128" [regName "d" rd, toString imm]
  | .wli256 rd imm => asmLine "WLI.256" [regName "q" rd, toString imm]
  | .wli512 rd imm => asmLine "WLI.512" [regName "o" rd, toString imm]
  | .add128 rd ra rb => asmLine "ADD.128" [regName "d" rd, regName "d" ra, regName "d" rb]
  | .add256 rd ra rb => asmLine "ADD.256" [regName "q" rd, regName "q" ra, regName "q" rb]
  | .add512 rd ra rb => asmLine "ADD.512" [regName "o" rd, regName "o" ra, regName "o" rb]
  | .sub128 rd ra rb => asmLine "SUB.128" [regName "d" rd, regName "d" ra, regName "d" rb]
  | .sub256 rd ra rb => asmLine "SUB.256" [regName "q" rd, regName "q" ra, regName "q" rb]
  | .sub512 rd ra rb => asmLine "SUB.512" [regName "o" rd, regName "o" ra, regName "o" rb]
  | .mulw128 rd ra rb => asmLine "MULW.128" [regName "q" rd, regName "d" ra, regName "d" rb]
  | .mulw256 rd ra rb => asmLine "MULW.256" [regName "o" rd, regName "q" ra, regName "q" rb]
  | .div128 rd ra rb => asmLine "DIV.128" [regName "d" rd, regName "d" ra, regName "d" rb]
  | .div256 rd ra rb => asmLine "DIV.256" [regName "q" rd, regName "q" ra, regName "q" rb]
  | .div512 rd ra rb => asmLine "DIV.512" [regName "o" rd, regName "o" ra, regName "o" rb]
  | .shl128 rd ra shamt => asmLine "SHL.128" [regName "d" rd, regName "d" ra, toString shamt]
  | .shl256 rd ra shamt => asmLine "SHL.256" [regName "q" rd, regName "q" ra, toString shamt]
  | .shl512 rd ra shamt => asmLine "SHL.512" [regName "o" rd, regName "o" ra, toString shamt]
  | .shr128 rd ra shamt => asmLine "SHR.128" [regName "d" rd, regName "d" ra, toString shamt]
  | .shr256 rd ra shamt => asmLine "SHR.256" [regName "q" rd, regName "q" ra, toString shamt]
  | .shr512 rd ra shamt => asmLine "SHR.512" [regName "o" rd, regName "o" ra, toString shamt]
  | .cmp128 ra rb => asmLine "CMP.128" [regName "d" ra, regName "d" rb]
  | .cmp256 ra rb => asmLine "CMP.256" [regName "q" ra, regName "q" rb]
  | .cmp512 ra rb => asmLine "CMP.512" [regName "o" ra, regName "o" rb]
  | .upcDq rd ra => asmLine "UPC.dq" [regName "q" rd, regName "d" ra]
  | .upcQo rd ra => asmLine "UPC.qo" [regName "o" rd, regName "q" ra]
  | .upcDo rd ra => asmLine "UPC.do" [regName "o" rd, regName "d" ra]
  | .dncQd rd ra => asmLine "DNC.qd" [regName "d" rd, regName "q" ra]
  | .dncOq rd ra => asmLine "DNC.oq" [regName "q" rd, regName "o" ra]
  | .dncOd rd ra => asmLine "DNC.od" [regName "d" rd, regName "o" ra]
  | .snrQd rd ra => asmLine "SNR.qd" [regName "d" rd, regName "q" ra]
  | .snrOq rd ra => asmLine "SNR.oq" [regName "q" rd, regName "o" ra]
  | .snrOd rd ra => asmLine "SNR.od" [regName "d" rd, regName "o" ra]
  | .mdf128 rd rv rn rm => asmLine "MDF.128" [regName "d" rd, regName "d" rv, regName "d" rn, regName "d" rm]
  | .mdf256 rd rv rn rm => asmLine "MDF.256" [regName "q" rd, regName "q" rv, regName "q" rn, regName "q" rm]
  | .mdc128 rd rv rn rm => asmLine "MDC.128" [regName "d" rd, regName "d" rv, regName "d" rn, regName "d" rm]
  | .mdc256 rd rv rn rm => asmLine "MDC.256" [regName "q" rd, regName "q" rv, regName "q" rn, regName "q" rm]
  | .divn128 rd ra rb => asmLine "DIVN.128" [regName "d" rd, regName "q" ra, regName "d" rb]
  | .divn256 rd ra rb => asmLine "DIVN.256" [regName "q" rd, regName "o" ra, regName "q" rb]
  | .t2sp rd ra => asmLine "T2SP" [regName "d" rd, regName "t" ra]
  | .sp2t rd ra => asmLine "SP2T" [regName "t" rd, regName "d" ra]
  | .tli rd imm => asmLine "TLI" [regName "t" rd, toString imm]
  | .tas rd ra => asmLine "TAS" [regName "t" rd, regName "t" ra]
  | .bmset ra => asmLine "BMSET" [regName "t" ra]
  | .bmclr ra => asmLine "BMCLR" [regName "t" ra]
  | .bmtst ra => asmLine "BMTST" [regName "t" ra]
  | .bmnext rd ra dir incl => asmLine ("BMNEXT." ++ searchSuffix dir incl) [regName "t" rd, regName "t" ra]
  | .bmaddr ra => asmLine "BMADDR" [regName "t" ra]
  | .nop => asmLine "NOP" []

/-- `MOV.dq qD, dA` (R102). -/
def pseudoMovDq (rd : QReg) (ra : DReg) : Instr := .upcDq rd ra

/-- `MOV.qo oD, qA` (R102). -/
def pseudoMovQo (rd : OReg) (ra : QReg) : Instr := .upcQo rd ra

/-- `MOV.do oD, dA` (R102). -/
def pseudoMovDo (rd : OReg) (ra : DReg) : Instr := .upcDo rd ra

/-- `MOV.128 dD, dA`, which an assembler may accept (R102). -/
def pseudoMov128 (rd ra : DReg) : Instr := .shl128 rd ra 0

/-- `MOV.256 qD, qA`, which an assembler may accept (R102). -/
def pseudoMov256 (rd ra : QReg) : Instr := .shl256 rd ra 0

/-- `MOV.512 oD, oA`, which an assembler may accept (R102). -/
def pseudoMov512 (rd ra : OReg) : Instr := .shl512 rd ra 0

/-- `ISSET tA` (R102). -/
def pseudoIsset (ra : TReg) : Instr := .bmtst ra

end Sys2Proof.Machine
end

