-- ==== Sys2Proof/Tests/Slice0.lean ====
section
/-! SUPPORT. Slice0.lean: the model's own tests. Expected values come from spec/95_test_vectors.md (named by
its row, such as A1 or S7) or from a rule's own example; a value worked out by hand from a rule says so. Then, for
each obligation with hypotheses, a witness that meets them. -/

namespace Sys2Proof.Machine.Tests

/-! ## Helpers -/

/-- The state with the host about to present one command word. -/
def presenting (s : State) (c : CommandWord) : State := { s with pending := [presentCommand c] }

/-- One step on a presented word. -/
def run (s : State) (c : CommandWord) : StepResult := step (presenting s c)

/-- One step on one host access. -/
def access (s : State) (e : HostEvent) : StepResult := step { s with pending := [e] }

/-- What is seen of a next state. -/
def after {α : Type} (r : StepResult) (f : State → α) : Option α :=
  match r with
  | .next s => some (f s)
  | .fault _ => none
  | .refused _ => none

/-- The cause, the fault word and `PC` after a step. -/
def faultOf (r : StepResult) : Option (Nat × CommandWord × Nat) :=
  after r fun s => (s.cause.toNat, s.ecmd, s.pc.toNat)

/-- A step that the port rejects. -/
def rejected (r : StepResult) : Bool :=
  match r with
  | .refused .portRejected => true
  | _ => false

/-- Reset with registers 1, 2 and 3 of a wide file loaded. -/
def wide (f : WideFile) (a b c : Nat) : State :=
  ((State.reset.writeWide f 1 a).writeWide f 2 b).writeWide f 3 c

/-- Reset with the tick spacing and `t[0]` loaded. -/
def ticks (spacing : BitVec 16) (x : Int) : State :=
  { State.reset with tspace := spacing }.writeT 0 x

/-- Reset with one nonzero bitmap byte and `t[1]` loaded. -/
def bitmap (m : Memory) (x : Int) : State := (State.reset.withMem m).writeT 1 x

/-! ## Well-formedness -/

theorem test_imm16_too_wide : (Instr.wli128 0 65536).wellFormed = false := by decide

theorem test_imm16_fits : (Instr.wli512 7 65535).wellFormed = true := by decide

theorem test_shamt_too_wide : (Instr.shl256 0 1 1024).wellFormed = false := by decide

theorem test_shamt_fits : (Instr.shr512 7 7 1023).wellFormed = true := by decide

theorem test_imm20_too_high : (Instr.tli 0 524288).wellFormed = false := by decide

theorem test_imm20_too_low : (Instr.tli 0 (-524289)).wellFormed = false := by decide

theorem test_imm20_fits : (Instr.tli 7 (-524288)).wellFormed = true := by decide

/-! ## Decoding: one word for every constructor, written out from 30_encoding.md R96 and R97 -/

theorem test_decode_wli128 : decode 0x0800FFFF#32 = .ok (.wli128 0 65535) := by rfl

theorem test_decode_wli256 : decode 0x09200003#32 = .ok (.wli256 2 3) := by rfl

theorem test_decode_wli512 : decode 0x0A300009#32 = .ok (.wli512 3 9) := by rfl

theorem test_decode_add128 : decode 0x10312000#32 = .ok (.add128 3 1 2) := by rfl

theorem test_decode_add256 : decode 0x11012000#32 = .ok (.add256 0 1 2) := by rfl

theorem test_decode_add512 : decode 0x12012000#32 = .ok (.add512 0 1 2) := by rfl

theorem test_decode_sub128 : decode 0x14312000#32 = .ok (.sub128 3 1 2) := by rfl

theorem test_decode_sub256 : decode 0x15012000#32 = .ok (.sub256 0 1 2) := by rfl

theorem test_decode_sub512 : decode 0x16012000#32 = .ok (.sub512 0 1 2) := by rfl

theorem test_decode_mulw128 : decode 0x18123000#32 = .ok (.mulw128 1 2 3) := by rfl

theorem test_decode_mulw256 : decode 0x19012000#32 = .ok (.mulw256 0 1 2) := by rfl

theorem test_decode_div128 : decode 0x1C012000#32 = .ok (.div128 0 1 2) := by rfl

theorem test_decode_div256 : decode 0x1D456000#32 = .ok (.div256 4 5 6) := by rfl

theorem test_decode_div512 : decode 0x1E012000#32 = .ok (.div512 0 1 2) := by rfl

theorem test_decode_shl128 : decode 0x20110040#32 = .ok (.shl128 1 1 64) := by rfl

theorem test_decode_shl256 : decode 0x212303FF#32 = .ok (.shl256 2 3 1023) := by rfl

theorem test_decode_shl512 : decode 0x22760200#32 = .ok (.shl512 7 6 512) := by rfl

theorem test_decode_shr128 : decode 0x24120001#32 = .ok (.shr128 1 2 1) := by rfl

theorem test_decode_shr256 : decode 0x250100FF#32 = .ok (.shr256 0 1 255) := by rfl

theorem test_decode_shr512 : decode 0x26010040#32 = .ok (.shr512 0 1 64) := by rfl

theorem test_decode_cmp128 : decode 0x28012000#32 = .ok (.cmp128 1 2) := by rfl

theorem test_decode_cmp256 : decode 0x29034000#32 = .ok (.cmp256 3 4) := by rfl

theorem test_decode_cmp512 : decode 0x2A076000#32 = .ok (.cmp512 7 6) := by rfl

theorem test_decode_upcDq : decode 0x2C120000#32 = .ok (.upcDq 1 2) := by rfl

theorem test_decode_upcQo : decode 0x2D340000#32 = .ok (.upcQo 3 4) := by rfl

theorem test_decode_upcDo : decode 0x2E010000#32 = .ok (.upcDo 0 1) := by rfl

theorem test_decode_dncQd : decode 0x30010000#32 = .ok (.dncQd 0 1) := by rfl

theorem test_decode_dncOq : decode 0x31560000#32 = .ok (.dncOq 5 6) := by rfl

theorem test_decode_dncOd : decode 0x32010000#32 = .ok (.dncOd 0 1) := by rfl

theorem test_decode_snrQd : decode 0x34100000#32 = .ok (.snrQd 1 0) := by rfl

theorem test_decode_snrOq : decode 0x35010000#32 = .ok (.snrOq 0 1) := by rfl

theorem test_decode_snrOd : decode 0x36230000#32 = .ok (.snrOd 2 3) := by rfl

theorem test_decode_mdf128 : decode 0x38512300#32 = .ok (.mdf128 5 1 2 3) := by rfl

theorem test_decode_mdf256 : decode 0x39012300#32 = .ok (.mdf256 0 1 2 3) := by rfl

theorem test_decode_mdc128 : decode 0x3C012300#32 = .ok (.mdc128 0 1 2 3) := by rfl

theorem test_decode_mdc256 : decode 0x3D456700#32 = .ok (.mdc256 4 5 6 7) := by rfl

theorem test_decode_divn128 : decode 0x40403000#32 = .ok (.divn128 4 0 3) := by rfl

theorem test_decode_divn256 : decode 0x41012000#32 = .ok (.divn256 0 1 2) := by rfl

theorem test_decode_t2sp : decode 0x50120000#32 = .ok (.t2sp 1 2) := by rfl

theorem test_decode_sp2t : decode 0x54310000#32 = .ok (.sp2t 3 1) := by rfl

theorem test_decode_tli : decode 0x58093B0C#32 = .ok (.tli 0 (-443636)) := by rfl

theorem test_decode_tas : decode 0x5C320000#32 = .ok (.tas 3 2) := by rfl

theorem test_decode_bmset : decode 0x60030000#32 = .ok (.bmset 3) := by rfl

theorem test_decode_bmclr : decode 0x64010000#32 = .ok (.bmclr 1) := by rfl

theorem test_decode_bmtst : decode 0x68030000#32 = .ok (.bmtst 3) := by rfl

theorem test_decode_bmnext_up : decode 0x6C210001#32 = .ok (.bmnext 2 1 .up false) := by rfl

theorem test_decode_bmnext_down : decode 0x6C640000#32 = .ok (.bmnext 6 4 .down false) := by rfl

theorem test_decode_bmnext_up_inclusive : decode 0x6C210003#32 = .ok (.bmnext 2 1 .up true) := by rfl

theorem test_decode_bmnext_down_inclusive : decode 0x6C210002#32 = .ok (.bmnext 2 1 .down true) := by rfl

theorem test_decode_bmaddr : decode 0x70050000#32 = .ok (.bmaddr 5) := by rfl

theorem test_decode_nop : decode 0x04000000#32 = .ok .nop := by rfl

/-- `TLI t2, -30721` (program P4): the 20-bit field is sign-extended. -/
theorem test_decode_tli_negative : decode 0x582F87FF#32 = .ok (.tli 2 (-30721)) := by rfl

/-! ## Illegal words (30_encoding.md R98; 95_test_vectors.md section 7) -/

theorem test_illegal_zero : decode 0x00000000#32 = .error .unassignedOp := by rfl

theorem test_illegal_ones : decode 0xFFFFFFFF#32 = .error .unassignedOp := by rfl

theorem test_illegal_nop_modifier : decode 0x04000001#32 = .error .reservedBits := by rfl

theorem test_illegal_mulw_width : decode 0x1A012000#32 = .error .unassignedWidth := by rfl

theorem test_illegal_wli_width : decode 0x0B000000#32 = .error .unassignedWidth := by rfl

theorem test_illegal_upc_pair : decode 0x2F010000#32 = .error .unassignedWidth := by rfl

theorem test_illegal_mdf_width : decode 0x3A012300#32 = .error .unassignedWidth := by rfl

theorem test_illegal_divn_width : decode 0x42012000#32 = .error .unassignedWidth := by rfl

theorem test_illegal_add_bit23 : decode 0x10812000#32 = .error .reservedBits := by rfl

theorem test_illegal_shl_bit10 : decode 0x20010400#32 = .error .reservedBits := by rfl

theorem test_illegal_tli_bit23 : decode 0x58800000#32 = .error .reservedBits := by rfl

theorem test_illegal_bmnext_fn2 : decode 0x6C210004#32 = .error .reservedBits := by rfl

theorem test_illegal_t2sp_rs2 : decode 0x50011000#32 = .error .reservedBits := by rfl

theorem test_illegal_word_traps :
    faultOf (run State.reset 0x10812000) = some (1, 0x10812000, 0) := by decide

theorem test_table_word : decodeTableWord 32 0x39012300 = some (.mdf256 0 1 2 3) := by rfl

theorem test_encode_divn : encode (.divn128 4 0 3) = 0x40403000 := by decide

/-! ## Wide arithmetic (section 3; example of the rule; or by hand from the rule) -/

/-- A30. -/
theorem test_wli128 :
    after (run (State.reset.writeWide .d 0 (2 ^ 128 - 1)) 0x0800FFFF) (fun s => s.readWide .d 0) =
      some (65535) := by decide

/-- R121's example. -/
theorem test_wli256 :
    after (run (State.reset) 0x09200003) (fun s => (s.readWide .q 2, s.pc)) =
      some (3, 1) := by decide

/-- by hand, R121. -/
theorem test_wli512 :
    after (run (State.reset) 0x0A300009) (fun s => (s.readWide .o 3, s.readWide .q 3)) =
      some (9, 0) := by decide +kernel

/-- A3. -/
theorem test_add128_limb_carry :
    after (run (wide .d (2 ^ 64 - 1) 1 0) 0x10012000) (fun s => (s.readWide .d 0, s.flags.c)) =
      some (2 ^ 64, false) := by decide

/-- A2. -/
theorem test_add128_wraps :
    after (run (wide .d (2 ^ 128 - 1) (2 ^ 128 - 1) 0) 0x10012000) (fun s => (s.readWide .d 0, s.flags.c)) =
      some (2 ^ 128 - 2, true) := by decide

/-- A4. -/
theorem test_add256_wraps :
    after (run (wide .q (2 ^ 255) (2 ^ 255) 0) 0x11012000) (fun s => (s.readWide .q 0, s.flags.c)) =
      some (0, true) := by decide

/-- A5. -/
theorem test_add512_wraps :
    after (run (wide .o (2 ^ 256 * 2 ^ 256 - 1) 1 0) 0x12012000) (fun s => (s.readWide .o 0, s.flags.c)) =
      some (0, true) := by decide +kernel

/-- A6. -/
theorem test_sub128_borrows :
    after (run (wide .d 0 1 0) 0x14012000) (fun s => (s.readWide .d 0, s.flags.c)) =
      some (2 ^ 128 - 1, true) := by decide

/-- A7. -/
theorem test_sub128_limb_borrow :
    after (run (wide .d (2 ^ 64) 1 0) 0x14012000) (fun s => (s.readWide .d 0, s.flags.c)) =
      some (2 ^ 64 - 1, false) := by decide

/-- R123's example. -/
theorem test_sub256_borrows :
    after (run (wide .q 5 7 0) 0x15012000) (fun s => (s.readWide .q 0, s.flags.c)) =
      some (2 ^ 256 - 2, true) := by decide

/-- A8. -/
theorem test_sub512_borrows :
    after (run (wide .o 0 (2 ^ 256 * 2 ^ 256 - 1) 0) 0x16012000) (fun s => (s.readWide .o 0, s.flags.c)) =
      some (1, true) := by decide +kernel

/-- A9. -/
theorem test_mulw128_greatest :
    after (run (wide .d (2 ^ 128 - 1) (2 ^ 128 - 1) 0) 0x18012000) (fun s => s.readWide .q 0) =
      some (2 ^ 256 - 2 ^ 129 + 1) := by decide

/-- A10. -/
theorem test_mulw128_limbs :
    after (run (wide .d (2 ^ 64 + 3) (2 ^ 64 + 5) 0) 0x18012000) (fun s => s.readWide .q 0) =
      some (2 ^ 128 + 8 * 2 ^ 64 + 15) := by decide

/-- A11. -/
theorem test_mulw256_greatest :
    after (run (wide .q (2 ^ 256 - 1) (2 ^ 256 - 1) 0) 0x19012000) (fun s => s.readWide .o 0) =
      some ((2 ^ 256 - 1) * (2 ^ 256 - 1)) := by decide +kernel

/-- A12. -/
theorem test_div128_by_zero :
    faultOf (run (wide .d 7 0 0) 0x1C012000) = some (2, 0x1C012000, 0) := by decide

/-- A13. -/
theorem test_div128_small :
    after (run (wide .d 5 7 0) 0x1C012000) (fun s => (s.readWide .d 0, s.cause)) =
      some (0, 0) := by decide

/-- by hand, R125. -/
theorem test_div256 :
    after (run (wide .q (2 ^ 255 + 5) 2 0) 0x1D012000) (fun s => s.readWide .q 0) =
      some (2 ^ 254 + 2) := by decide

/-- A14. -/
theorem test_div512 :
    after (run (wide .o (2 ^ 256 * 2 ^ 256 - 1) (2 ^ 256) 0) 0x1E012000) (fun s => s.readWide .o 0) =
      some (2 ^ 256 - 1) := by decide +kernel

/-- A15. -/
theorem test_shl128_top :
    after (run (wide .d (2 ^ 128 - 1) 0 0) 0x2001007F) (fun s => s.readWide .d 0) =
      some (2 ^ 127) := by decide

/-- A16. -/
theorem test_shl128_width :
    after (run (wide .d (2 ^ 128 - 1) 0 0) 0x20010080) (fun s => s.readWide .d 0) =
      some (0) := by decide

/-- by hand, R126. -/
theorem test_shl256 :
    after (run (wide .q (2 ^ 200 + 3) 0 0) 0x21010040) (fun s => s.readWide .q 0) =
      some (3 * 2 ^ 64) := by decide

/-- by hand, R126. -/
theorem test_shl512 :
    after (run (wide .o 3 0 0) 0x220100FF) (fun s => s.readWide .o 0) =
      some (3 * 2 ^ 255) := by decide +kernel

/-- by hand, R127. -/
theorem test_shr128 :
    after (run (wide .d (2 ^ 127 + 1) 0 0) 0x24010001) (fun s => s.readWide .d 0) =
      some (2 ^ 126) := by decide

/-- A18. -/
theorem test_shr256_top :
    after (run (wide .q (2 ^ 256 - 1) 0 0) 0x250100FF) (fun s => s.readWide .q 0) =
      some (1) := by decide

/-- A19. -/
theorem test_shr256_width :
    after (run (wide .q (2 ^ 256 - 1) 0 0) 0x25010100) (fun s => s.readWide .q 0) =
      some (0) := by decide

/-- A20. -/
theorem test_shr512 :
    after (run (wide .o (2 ^ 256 * 2 ^ 256 - 1) 0 0) 0x26010040) (fun s => s.readWide .o 0) =
      some (2 ^ 256 * 2 ^ 192 - 1) := by decide +kernel

/-- A21. -/
theorem test_cmp128_equal :
    after (run (wide .d 5 5 0) 0x28012000) (fun s => (s.flags.z, s.flags.l)) =
      some (true, false) := by decide

/-- A22. -/
theorem test_cmp128_greater :
    after (run (wide .d 6 5 0) 0x28012000) (fun s => (s.flags.z, s.flags.l)) =
      some (false, false) := by decide

/-- A23. -/
theorem test_cmp256_less :
    after (run (wide .q 0 (2 ^ 256 - 1) 0) 0x29012000) (fun s => (s.flags.z, s.flags.l)) =
      some (false, true) := by decide

/-- by hand, R128. -/
theorem test_cmp512_less :
    after (run (wide .o 1 (2 ^ 256) 0) 0x2A012000) (fun s => (s.flags.z, s.flags.l)) =
      some (false, true) := by decide +kernel

/-- R129's example. -/
theorem test_upc_dq :
    after (run (wide .d 0 (2 ^ 128 - 1) 0) 0x2C120000) (fun s => s.readWide .q 1) =
      some (2 ^ 128 - 1) := by decide

/-- by hand, R129. -/
theorem test_upc_qo :
    after (run (wide .q (2 ^ 256 - 1) 0 0) 0x2D010000) (fun s => s.readWide .o 0) =
      some (2 ^ 256 - 1) := by decide +kernel

/-- A24. -/
theorem test_upc_do :
    after (run ((wide .d (2 ^ 128 - 1) 0 0).writeWide .o 0 (2 ^ 255 + 2 ^ 200)) 0x2E010000) (fun s => s.readWide .o 0) =
      some (2 ^ 128 - 1) := by decide +kernel

/-- R130's example. -/
theorem test_dnc_qd :
    after (run (wide .q (2 ^ 200 + 7) 0 0) 0x30010000) (fun s => s.readWide .d 0) =
      some (7) := by decide

/-- by hand, R130. -/
theorem test_dnc_oq :
    after (run (wide .o (2 ^ 256 * 2 ^ 200 + 2 ^ 255 + 9) 0 0) 0x31010000) (fun s => s.readWide .q 0) =
      some (2 ^ 255 + 9) := by decide +kernel

/-- by hand, R130. -/
theorem test_dnc_od :
    after (run (wide .o (2 ^ 256 * 2 ^ 200 + 2 ^ 128 + 9) 0 0) 0x32010000) (fun s => s.readWide .d 0) =
      some (9) := by decide +kernel

/-- R131's example. -/
theorem test_snr_qd_clamps :
    after (run ((wide .q (2 ^ 128) 0 0).writeWide .d 0 5) 0x34010000) (fun s => s.readWide .d 0) =
      some (0) := by decide

/-- A27. -/
theorem test_snr_oq_clamps :
    after (run ((wide .o (2 ^ 256) 0 0).writeWide .q 0 5) 0x35010000) (fun s => s.readWide .q 0) =
      some (0) := by decide +kernel

/-- A28. -/
theorem test_snr_oq_fits :
    after (run (wide .o (2 ^ 256 - 1) 0 0) 0x35010000) (fun s => s.readWide .q 0) =
      some (2 ^ 256 - 1) := by decide +kernel

/-- A29. -/
theorem test_snr_od_clamps :
    after (run ((wide .o (2 ^ 128) 0 0).writeWide .d 0 5) 0x36010000) (fun s => s.readWide .d 0) =
      some (0) := by decide +kernel

/-! ## Multiply-divide (section 4) -/

/-- M1. -/
theorem test_mdf128_widens :
    after (run (wide .d (2 ^ 127) 6 4) 0x38012300) (fun s => s.readWide .d 0) =
      some (3 * 2 ^ 126) := by decide

/-- M3. -/
theorem test_mdf128_overflows :
    faultOf (run (wide .d (2 ^ 64) (2 ^ 64) 1) 0x38012300) = some (3, 0x38012300, 0) := by decide

/-- M7. -/
theorem test_mdf256_widens :
    after (run (wide .q (2 ^ 255) 10 20) 0x39012300) (fun s => s.readWide .q 0) =
      some (2 ^ 254) := by decide

/-- M8. -/
theorem test_mdf256_overflows :
    faultOf (run (wide .q (2 ^ 255) 4 1) 0x39012300) = some (3, 0x39012300, 0) := by decide

/-- S8. -/
theorem test_mdc128_rounds_up :
    after (run (wide .d 5 2 3) 0x3C012300) (fun s => s.readWide .d 0) =
      some (4) := by decide

/-- by hand, R163: the floor `2^128 - 1` fits and the ceiling does not (the operand of row M14 exceeds 128 bits). -/
theorem test_mdc128_ceiling_overflows :
    faultOf (run (wide .d 7 ((2 ^ 129 - 1) / 7) 2) 0x3C012300) = some (3, 0x3C012300, 0) := by decide

/-- by hand, R163. -/
theorem test_mdc256_rounds_up :
    after (run (wide .q (2 ^ 255) 10 3) 0x3D012300) (fun s => s.cause) =
      some (3) := by decide

/-- by hand, R163. -/
theorem test_mdc256_exact :
    after (run (wide .q (2 ^ 255) 3 3) 0x3D012300) (fun s => s.readWide .q 0) =
      some (2 ^ 255) := by decide

/-- M16. -/
theorem test_divn128_greatest :
    after (run ((wide .d 0 4 0).writeWide .q 1 (4 * 2 ^ 128 - 1)) 0x40012000) (fun s => s.readWide .d 0) =
      some (2 ^ 128 - 1) := by decide

/-- M17. -/
theorem test_divn128_overflows :
    faultOf (run ((wide .d 0 4 0).writeWide .q 1 (4 * 2 ^ 128)) 0x40012000) = some (3, 0x40012000, 0) := by decide

/-- M19. -/
theorem test_divn256_overflows :
    faultOf (run ((wide .q 0 (2 ^ 256 - 1) 0).writeWide .o 1 (2 ^ 256 * 2 ^ 256 - 1)) 0x41012000) = some (3, 0x41012000, 0) := by decide +kernel

/-- M20. -/
theorem test_divn256_greatest :
    after (run ((wide .q 0 (2 ^ 256 - 1) 0).writeWide .o 1 ((2 ^ 256 - 1) * (2 ^ 256 - 1))) 0x41012000) (fun s => s.readWide .q 0) =
      some (2 ^ 256 - 1) := by decide +kernel

/-! ## Converter (section 5, reference table) -/

/-- S3. -/
theorem test_t2sp_bottom :
    after (run (State.reset.writeT 1 (-443636)) 0x50010000) (fun s => s.readWide .d 0) =
      some (4295048016) := by decide

/-- the value at tick 100. -/
theorem test_t2sp_positive :
    after (run (State.reset.writeT 1 100) 0x50010000) (fun s => s.readWide .d 0) =
      some (18539204128674375874) := by decide

/-- the value at tick -2^31. -/
theorem test_t2sp_out_of_domain :
    faultOf (run (State.reset.writeT 1 (-2147483648)) 0x50010000) = some (4, 0x50010000, 0) := by decide

/-- the value at 2^64 - 1. -/
theorem test_sp2t_below_one :
    after (run (State.reset.writeWide .d 1 (2 ^ 64 - 1)) 0x54010000) (fun s => s.readT 0) =
      some (-1) := by decide

/-- the value just below MAX_SQRT_PRICE_X64. -/
theorem test_sp2t_top :
    after (run (State.reset.writeWide .d 1 79226673521066979257578248090) 0x54010000) (fun s => s.readT 0) =
      some (443635) := by decide

/-- S6. -/
theorem test_sp2t_exclusive_bound :
    faultOf (run (State.reset.writeWide .d 1 79226673521066979257578248091) 0x54010000) = some (5, 0x54010000, 0) := by decide

/-- The intermediates of R187 for `4295048016`. -/
theorem test_procedure_bottom : (tickLow 4295048016, tickHigh 4295048016,
    sqrtPriceToTickProcedure referenceKtab 4295048016) = (-443637, -443636, -443636) := by decide

/-- The intermediates of R187 just below `MAX_SQRT_PRICE_X64`. -/
theorem test_procedure_top : (tickLow 79226673521066979257578248090,
    tickHigh 79226673521066979257578248090,
    sqrtPriceToTickProcedure referenceKtab 79226673521066979257578248090) =
      (443635, 443636, 443635) := by decide

/-! ## Ticks and the bitmap (section 6, reference geometry) -/

/-- R97's example. -/
theorem test_tli :
    after (run (State.reset) 0x58093B0C) (fun s => s.readT 0) =
      some (-443636) := by decide

/-- R211: -524288. -/
theorem test_tli_outside_domain :
    after (run (State.reset) 0x58080000) (fun s => s.readT 0) =
      some (-524288) := by decide

/-- R220, TSPACE = 1. -/
theorem test_tas_below_min_tick :
    after (run (ticks 1 (-443636)) 0x5C100000) (fun s => s.readT 1) =
      some (-443640) := by decide

/-- TAS row, TSPACE = 10. -/
theorem test_tas_minus_one :
    after (run (ticks 10 (-1)) 0x5C100000) (fun s => s.readT 1) =
      some (-600) := by decide

/-- H14. -/
theorem test_bmset :
    after (run (ticks 1 (-60)) 0x60000000) (fun s => s.mem.readWord 0x1038) =
      some (0x8000000000000000#64) := by decide

/-- B2: 59 is no start index. -/
theorem test_bmset_unaligned :
    faultOf (run (ticks 1 59) 0x60000000) = some (6, 0x60000000, 0) := by decide

/-- R223. -/
theorem test_bmclr :
    after (run ((ticks 1 30720).withMem [(0x2000, 3)]) 0x64000000) (fun s => s.mem) =
      some ([(0x2000, 2)]) := by decide

/-- B2: 443640 is outside the domain. -/
theorem test_bmclr_outside :
    faultOf (run (ticks 1 443640) 0x64000000) = some (6, 0x64000000, 0) := by decide

/-- H13. -/
theorem test_bmtst_set :
    after (run ((ticks 1 0).withMem [(0x1040, 1)]) 0x68000000) (fun s => s.flags.f) =
      some (true) := by decide

/-- R224, the flag set before. -/
theorem test_bmtst_clear :
    after (run (((ticks 1 60).withMem [(0x1040, 1)]).setF true) 0x68000000) (fun s => s.flags.f) =
      some (false) := by decide

/-- B3 from 30660: PRIM into EXTP. -/
theorem test_bmnext_up_across :
    after (run (bitmap [(0x107F, 0x80), (0x2000, 1)] 30660) 0x6C210001) (fun s => (s.readT 2, s.flags.f)) =
      some (30720, true) := by decide

/-- B3 from 30720 by DNI. -/
theorem test_bmnext_down_inclusive :
    after (run (bitmap [(0x107F, 0x80), (0x2000, 1)] 30720) 0x6C210002) (fun s => (s.readT 2, s.flags.f)) =
      some (30720, true) := by decide

/-- B2: -30780. -/
theorem test_bmaddr_negative :
    after (run (ticks 1 (-30780)) 0x70000000) (fun s => s.baddr) =
      some (0x0200073F) := by decide

/-- B2: 443580. -/
theorem test_bmaddr_far :
    after (run (ticks 1 443580) 0x70000000) (fun s => s.baddr) =
      some (0x010D0321) := by decide

/-- R250. -/
theorem test_nop :
    after (run (State.reset) 0x04000000) (fun s => (s.pc, s.cause)) =
      some (1, 0) := by decide

/-- B1: `KMIN`, `KMAX` at `TSPACE = 10`. -/
theorem test_domain : ((ticks 10 0).kmin, (ticks 10 0).kmax) = (-740, 739) := by decide

/-- R219: the first and the last bit of the linear view are slots `-7680` and `7679`. -/
theorem test_linear_ends : (linIndex Config.reference (-7680), linIndex Config.reference 7679) =
    (0, Config.reference.totalBits - 1) := by decide

/-! ## Faults, halt, acknowledge (section 8) -/

/-- Step 3: a halted block does not accept a command. -/
theorem test_halted_holds_off :
    (match run { State.reset with cause := 2 } 0x04000000 with
      | .fault .heldOff => true
      | _ => false) = true := by decide

/-- Step 4: the acknowledge. -/
theorem test_acknowledge :
    faultOf (access { State.reset with cause := 2, ecmd := 0x1C012000, pc := 1 } (presentAcknowledge 5)) =
      some (0, 0x1C012000, 2) := by decide

/-- Step 7: an acknowledge with no fault pending. -/
theorem test_acknowledge_idle :
    faultOf (access { State.reset with ecmd := 0x1C012000, pc := 4 } (presentAcknowledge 0)) =
      some (0, 0x1C012000, 4) := by decide

/-- One step on a placed word: `WLI.128 d1, 7` as the first command after reset. -/
theorem test_withFetchWord : after (step (State.reset.withFetchWord 32 0x08100007))
    (fun s => (s.readWide .d 1, s.pc, s.pending)) = some (7, 1, []) := by decide

/-! ## Host port (section 9) -/

/-- H1, the write. -/
theorem test_port_tick_write : after (access State.reset (.write 0x0100 8 0xFFFFFFFFFFFFFFFF))
    (fun s => s.readT 0) = some (-1) := by decide

/-- H1, the read: not sign-extended. -/
theorem test_port_tick_read : after (access (State.reset.writeT 0 (-1)) (.read 0x0100 8))
    (fun s => s.answer) = some (some 0x00000000FFFFFFFF) := by decide

/-- H3, its second write. -/
theorem test_port_limb : after (access (State.reset.writeWide .d 3 (5 * 2 ^ 64)) (.write 0x0230 8 9))
    (fun s => s.readWide .d 3) = some 92233720368547758089 := by decide

/-- H5: the last limb of the last register. -/
theorem test_port_last_limb :
    after (access State.reset (.write 0x09F8 8 0x8000000000000000)) (fun s => s.readWide .o 7) =
      some (2 ^ 255 * 2 ^ 256) := by decide +kernel

/-- H6, H7, H8. -/
theorem test_port_tspace :
    (after (access State.reset (.write 0x0028 8 0)) (fun s => s.tspace),
      after (access State.reset (.write 0x0028 8 0x1000A)) (fun s => s.tspace),
      after (access { State.reset with tspace := 10 } (.write 0x0028 8 0x10000)) (fun s => s.tspace)) =
      (some 1, some 10, some 10) := by decide

/-- H9, H10, H12. -/
theorem test_port_rejects :
    [HostEvent.write 0x0104 8 0, .read 0x0104 8, .read 0x0040 8, .read 0x0140 8, .read 0x1080 8,
      .read 0x2380 8, .read 0x4380 8, .read 0x7FF8 8, .write 0 8 0x0000000104000000,
      .read 0x0100 4].all (fun e => rejected (access State.reset e)) = true := by decide

/-- H11: the last mapped words. -/
theorem test_port_accepts :
    [0x1078, 0x2378, 0x4378, 0x09F8].all
      (fun a => (after (access State.reset (.read a 8)) (fun s => s.answer)).isSome) = true := by
  decide

/-- R70: a word's least significant byte has the lowest offset. -/
theorem test_port_bitmap_bytes :
    after (access State.reset (.write 0x1040 8 0x0200000000000001)) (fun s => s.mem) =
      some [(0x1040, 1), (0x1047, 2)] := by decide

/-- R300: the reset clears what a run left and keeps the configuration. -/
theorem test_reset_event :
    after (access { wide .d 1 2 3 with cause := 3, tspace := 9, pc := 5 } .reset) id =
      some State.reset := by decide +kernel

/-! ## A host that looks (44_system.md R252; by hand from the rule) -/

/-- Presents `TLI t0, -443636` while `F` is clear, and nothing once it is set. -/
def lookingHost : HostFunction :=
  commandHost fun s => if s.flags.f then none else some 0x58093B0C

theorem test_host_presents : after (hostStep lookingHost State.reset)
    (fun s => (s.readT 0, s.pc, s.pending)) = some (-443636, 1, []) := by decide

theorem test_host_stops : after (hostStep lookingHost (State.reset.setF true)) (fun s => s.pc) = none := by
  decide

/-! ## Assembly (30_encoding.md R101) -/

theorem test_assembly_bmnext : assemblyText (.bmnext 2 1 .up true) = "BMNEXT.UPI t2, t1" := by decide

theorem test_assembly_mulw : assemblyText (.mulw128 1 2 3) = "MULW.128 q1, d2, d3" := by decide

/-! ## Witnesses: what meets the hypotheses of each obligation -/

/-- The reference geometry meets the constraints of 00_scope.md R7. -/
theorem reference_geometry : Geometry Config.reference := by
  constructor <;> decide

/-- The reference table meets the constraints of 00_scope.md R7. -/
theorem reference_table : TableOk referenceKtab := by
  constructor <;> decide

/-- The reference array size. -/
theorem reference_span_fits : SpanFits Config.reference := by
  unfold SpanFits
  decide

theorem witness_DecodeEncodeRoundTrip : (Instr.shl512 7 6 1023).wellFormed = true := by decide

theorem witness_LegalWordIsItsCommandsWord :
    decode 0x212303FF#32 = .ok (.shl256 2 3 1023) := by rfl

theorem witness_TableDecidesDecoding :
    (∃ r ∈ opcodeTable, 0x6C210003#32 &&& r.mask = r.value) ∧
      ∀ r ∈ opcodeTable, 0x6C210004#32 &&& r.mask ≠ r.value := by decide

theorem witness_IllegalWordRaises :
    (presenting State.reset 0x1A012000).cause = 0 ∧
      (presenting State.reset 0x1A012000).pending = presentCommand 0x1A012000 :: [] ∧
      ∀ r ∈ opcodeTable, 0x1A012000#32 &&& r.mask ≠ r.value := by decide

theorem witness_StepRunsDecodedCommand :
    (presenting State.reset 0x10312000).cause = 0 ∧
      (presenting State.reset 0x10312000).pending = presentCommand 0x10312000 :: [] ∧
      decode 0x10312000#32 = .ok (.add128 3 1 2) := ⟨rfl, rfl, rfl⟩

/-- A halted block with a command presented. -/
theorem witness_HaltedBlockExecutesNoCommand_command :
    (presenting { State.reset with cause := 6 } 0x04000000).cause ≠ 0 ∧
      (presenting { State.reset with cause := 6 } 0x04000000).pending =
        presentCommand 0x04000000 :: [] := by decide

/-- A halted block that the host reads. -/
theorem witness_HaltedBlockExecutesNoCommand_step :
    ∃ s t : State, s.cause ≠ 0 ∧ step s = .next t :=
  ⟨{ State.reset with cause := 1, pending := [.read 0x0010 8] }, _, by decide, rfl⟩

/-- Each ground of a rejected access: its width, its alignment, an unmapped offset just past `PRIM`. -/
theorem witness_RejectedAccessHasNoStep_ground :
    ((4 : Nat) ≠ 8) ∧ (0x0104 % 8 ≠ 0) ∧ portTarget Config.reference 0x1080 = none ∧
      { State.reset with pending := [.read 0x1080 8] }.pending = .read 0x1080 8 :: [] := by decide

theorem witness_RejectedAccessHasNoStep_upper_half :
    2 ^ 32 ≤ (0x0000000100000000#64).toNat ∧
      { State.reset with pending := [.write 0 8 0x0000000100000000] }.pending =
        .write 0 8 0x0000000100000000 :: [] := by decide

theorem witness_WliLoadsImmediate :
    (Instr.wli512 7 65535).wellFormed = true ∧
      (WideFile.o, 0x0A000000#32, Instr.wli512 7 65535) ∈
        [(WideFile.d, 0x08000000#32, Instr.wli128 7 65535), (.q, 0x09000000#32, .wli256 7 65535),
          (.o, 0x0A000000#32, .wli512 7 65535)] := by decide

theorem witness_AddWrapsAndCarries :
    (WideFile.o, 0x12000000#32, Instr.add512 7 7 7) ∈
      [(WideFile.d, 0x10000000#32, Instr.add128 7 7 7), (.q, 0x11000000#32, .add256 7 7 7),
        (.o, 0x12000000#32, .add512 7 7 7)] := by decide

theorem witness_SubWrapsAndBorrows :
    (WideFile.q, 0x15000000#32, Instr.sub256 0 1 2) ∈
      [(WideFile.d, 0x14000000#32, Instr.sub128 0 1 2), (.q, 0x15000000#32, .sub256 0 1 2),
        (.o, 0x16000000#32, .sub512 0 1 2)] := by decide

theorem witness_MulwExactProduct :
    (WideFile.q, WideFile.o, 0x19000000#32, Instr.mulw256 0 1 2) ∈
      [(WideFile.d, WideFile.q, 0x18000000#32, Instr.mulw128 0 1 2),
        (.q, .o, 0x19000000#32, .mulw256 0 1 2)] := by decide

/-- A divisor of 1, the least that divides, and a divisor of 0. -/
theorem witness_DivFloorOrZeroDivisor :
    (WideFile.d, 0x1C000000#32, Instr.div128 0 1 2) ∈
        [(WideFile.d, 0x1C000000#32, Instr.div128 0 1 2), (.q, 0x1D000000#32, .div256 0 1 2),
          (.o, 0x1E000000#32, .div512 0 1 2)] ∧
      (wide .d 7 1 0).readWide .d 2 ≠ 0 ∧ (wide .d 7 0 0).readWide .d 2 = 0 := by decide

/-- A distance of the width and the greatest distance. -/
theorem witness_ShlByDistance :
    (Instr.shl128 0 1 128).wellFormed = true ∧ (Instr.shl512 0 1 1023).wellFormed = true ∧
      (WideFile.d, 0x20000000#32, Instr.shl128 0 1 128) ∈
        [(WideFile.d, 0x20000000#32, Instr.shl128 0 1 128), (.q, 0x21000000#32, .shl256 0 1 128),
          (.o, 0x22000000#32, .shl512 0 1 128)] := by decide

theorem witness_ShrByDistance :
    (Instr.shr128 0 1 127).wellFormed = true ∧ (Instr.shr512 0 1 1023).wellFormed = true ∧
      (WideFile.d, 0x24000000#32, Instr.shr128 0 1 127) ∈
        [(WideFile.d, 0x24000000#32, Instr.shr128 0 1 127), (.q, 0x25000000#32, .shr256 0 1 127),
          (.o, 0x26000000#32, .shr512 0 1 127)] := by decide

theorem witness_CmpSetsZAndL :
    (WideFile.o, 0x2A000000#32, Instr.cmp512 1 1) ∈
      [(WideFile.d, 0x28000000#32, Instr.cmp128 1 1), (.q, 0x29000000#32, .cmp256 1 1),
        (.o, 0x2A000000#32, .cmp512 1 1)] := by decide

theorem witness_UpcLosesNothing :
    (WideFile.d, WideFile.o, 0x2E000000#32, Instr.upcDo 0 1, Instr.dncOd 2 0) ∈
      [(WideFile.d, WideFile.q, 0x2C000000#32, Instr.upcDq 0 1, Instr.dncQd 2 0),
        (.q, .o, 0x2D000000#32, .upcQo 0 1, .dncOq 2 0),
        (.d, .o, 0x2E000000#32, .upcDo 0 1, .dncOd 2 0)] := by decide

theorem witness_DncTruncates :
    (WideFile.q, WideFile.o, 0x31000000#32, Instr.dncOq 0 1) ∈
      [(WideFile.d, WideFile.q, 0x30000000#32, Instr.dncQd 0 1), (.q, .o, 0x31000000#32, .dncOq 0 1),
        (.d, .o, 0x32000000#32, .dncOd 0 1)] := by
  decide

theorem witness_SnrKeepsOrClampsToZero :
    (WideFile.d, WideFile.o, 0x36000000#32, Instr.snrOd 0 1) ∈
      [(WideFile.d, WideFile.q, 0x34000000#32, Instr.snrQd 0 1), (.q, .o, 0x35000000#32, .snrOq 0 1),
        (.d, .o, 0x36000000#32, .snrOd 0 1)] := by
  decide

/-- M16, M17 and M18: the greatest quotient that fits, the least that does not, a divisor of 0. -/
theorem witness_DivnNarrowsOrFaults :
    (WideFile.d, WideFile.q, 0x40000000#32, Instr.divn128 0 1 2) ∈
        [(WideFile.d, WideFile.q, 0x40000000#32, Instr.divn128 0 1 2),
          (.q, .o, 0x41000000#32, .divn256 0 1 2)] ∧
      (let s := (wide .d 0 4 0).writeWide .q 1 (4 * 2 ^ 128 - 1); s.readWide .d 2 ≠ 0 ∧ s.readWide .q 1 / s.readWide .d 2 < 2 ^ WideFile.d.bits) ∧
      (let s := (wide .d 0 4 0).writeWide .q 1 (4 * 2 ^ 128); s.readWide .d 2 ≠ 0 ∧ 2 ^ WideFile.d.bits ≤ s.readWide .q 1 / s.readWide .d 2) ∧
      (wide .d 0 0 0).readWide .d 2 = 0 := by decide

/-- M5, M3 and M10. -/
theorem witness_MdfFloorOrFaults :
    (WideFile.d, 0x38000000#32, Instr.mdf128 0 1 2 3) ∈
        [(WideFile.d, 0x38000000#32, Instr.mdf128 0 1 2 3), (.q, 0x39000000#32, .mdf256 0 1 2 3)] ∧
      (let s := wide .d (2 ^ 128 - 1) (2 ^ 128 - 1) (2 ^ 128 - 1); s.readWide .d 3 ≠ 0 ∧
          s.readWide .d 1 * s.readWide .d 2 / s.readWide .d 3 < 2 ^ WideFile.d.bits) ∧
      (let s := wide .d (2 ^ 64) (2 ^ 64) 1; s.readWide .d 3 ≠ 0 ∧
          2 ^ WideFile.d.bits ≤ s.readWide .d 1 * s.readWide .d 2 / s.readWide .d 3) ∧
      (wide .d 7 9 0).readWide .d 3 = 0 := by decide

/-- M6, and a ceiling of `2^128` by hand: the greatest ceiling that fits, the least that does
not; a denominator of 0. -/
theorem witness_MdcCeilOrFaults :
    (WideFile.d, 0x3C000000#32, Instr.mdc128 0 1 2 3) ∈
        [(WideFile.d, 0x3C000000#32, Instr.mdc128 0 1 2 3), (.q, 0x3D000000#32, .mdc256 0 1 2 3)] ∧
      (let s := wide .d (2 ^ 128 - 1) (2 ^ 128 - 1) (2 ^ 128 - 1); s.readWide .d 1 * s.readWide .d 2 ≤ (2 ^ 128 - 1) * s.readWide .d 3 ∧
          (2 ^ 128 - 1) * s.readWide .d 3 < s.readWide .d 1 * s.readWide .d 2 + s.readWide .d 3 ∧
          2 ^ 128 - 1 < 2 ^ WideFile.d.bits) ∧
      (let s := wide .d 7 ((2 ^ 129 - 1) / 7) 2; s.readWide .d 1 * s.readWide .d 2 ≤ 2 ^ 128 * s.readWide .d 3 ∧
          2 ^ 128 * s.readWide .d 3 < s.readWide .d 1 * s.readWide .d 2 + s.readWide .d 3 ∧
          2 ^ WideFile.d.bits ≤ 2 ^ 128) ∧
      (wide .d 0 0 0).readWide .d 3 = 0 := by decide

theorem witness_MdfIsMulwThenDivn :
    (WideFile.q, Instr.mdf256 0 1 2 3, Instr.mulw256 4 1 2, Instr.divn256 0 4 3) ∈
      [(WideFile.d, Instr.mdf128 0 1 2 3, Instr.mulw128 4 1 2, Instr.divn128 0 4 3),
        (.q, .mdf256 0 1 2 3, .mulw256 4 1 2, .divn256 0 4 3)] := by decide

theorem witness_MdcIsSixCommands :
    ((4 : Reg) ≠ 5 ∧ (4 : Reg) ≠ 6 ∧ (5 : Reg) ≠ 6) ∧
      (WideFile.d, Instr.mdc128 0 1 2 3, Instr.mulw128 4 1 2, Instr.upcDq 5 3, Instr.wli256 6 1,
          Instr.sub256 5 5 6, Instr.add256 4 4 5, Instr.divn128 0 4 3) ∈
        [(WideFile.d, Instr.mdc128 0 1 2 3, Instr.mulw128 4 1 2, Instr.upcDq 5 3, Instr.wli256 6 1,
            Instr.sub256 5 5 6, Instr.add256 4 4 5, Instr.divn128 0 4 3),
          (.q, .mdc256 0 1 2 3, .mulw256 4 1 2, .upcQo 5 3, .wli512 6 1, .sub512 5 5 6,
            .add512 4 4 5, .divn256 0 4 3)] := by decide

/-- M12: both retire. -/
theorem witness_FloorAndCeilSandwich :
    (WideFile.d, Instr.mdf128 0 1 2 3, Instr.mdc128 0 1 2 3) ∈
        [(WideFile.d, Instr.mdf128 0 1 2 3, Instr.mdc128 0 1 2 3),
          (.q, .mdf256 0 1 2 3, .mdc256 0 1 2 3)] ∧
      after (exec (.mdc128 0 1 2 3) (wide .d 10 10 3)) (fun u => u.pc) =
        some ((wide .d 10 10 3).pc + 1) := by decide

/-- The two ends of the domain and the first value past it. -/
theorem witness_T2spConvertsOrRaises :
    ((State.reset.writeT 1 (-443636)).readT 1).natAbs ≤ 443636 ∧
      443636 < ((State.reset.writeT 1 443637).readT 1).natAbs := by decide

/-- The least and the greatest valid price, and the first price refused at each end. -/
theorem witness_Sp2tBracketsThePrice :
    TableOk State.reset.cfg.ktab ∧
      4295048016 ≤ (State.reset.writeWide .d 1 4295048016).readWide .d 1 ∧
      (State.reset.writeWide .d 1 79226673521066979257578248090).readWide .d 1 <
        79226673521066979257578248091 ∧
      (State.reset.writeWide .d 1 4295048015).readWide .d 1 < 4295048016 ∧
      79226673521066979257578248091 ≤
        (State.reset.writeWide .d 1 79226673521066979257578248091).readWide .d 1 :=
  ⟨reference_table, by decide, by decide, by decide, by decide⟩

theorem witness_ReferenceTableStrictlyMonotone :
    (-443636 : Int) ≤ -443636 ∧ (-443636 : Int) < 443636 ∧ (443636 : Int) ≤ 443636 := by decide

/-- The table, an idle block, and a tick for each clause. -/
theorem witness_ReferenceTableRoundTrip :
    State.reset.cfg.ktab = referenceKtab ∧ (ticks 1 443635).cause = 0 ∧
      (-443636 ≤ (ticks 1 443635).readT 0 ∧ (ticks 1 443635).readT 0 ≤ 443635) ∧
      (ticks 1 443636).readT 0 = 443636 ∧ 443636 < (ticks 1 443637).readT 0 :=
  ⟨rfl, by decide, by decide, by decide, by decide⟩

theorem witness_CandidateTicksAdjacent :
    4295048016 ≤ 4295048016 ∧ 4295048016 < 79226673521066979257578248091 := by decide

theorem witness_TliLoadsAnyImmediate :
    (-524288 : Int) ≤ -524288 ∧ (524287 : Int) ≤ 524287 := by decide

/-- The two ends of the tick domain, at the greatest spacing, and a value past it. -/
theorem witness_TasRoundsDownOrRaises :
    Geometry (ticks 65535 0).cfg ∧ SpanFits (ticks 65535 0).cfg ∧
      1 ≤ (ticks 65535 (-443636)).tspace.toNat ∧ -443636 ≤ (ticks 65535 (-443636)).readT 0 ∧
      (ticks 1 443636).readT 0 ≤ 443636 ∧ (ticks 1 (-443637)).readT 0 < -443636 :=
  ⟨reference_geometry, reference_span_fits, by decide, by decide, by decide, by decide⟩

/-- The lowest and the highest start index, and an aligned value past each. -/
theorem witness_validStart :
    ((ticks 1 (-443640)).validStart ((ticks 1 (-443640)).readT 0) ∧
      (ticks 1 443580).validStart ((ticks 1 443580).readT 0)) ∧
      ¬ (ticks 1 443640).validStart ((ticks 1 443640).readT 0) ∧
      ¬ (ticks 1 (-443700)).validStart ((ticks 1 (-443700)).readT 0) ∧
      ¬ (ticks 1 1).validStart ((ticks 1 1).readT 0) := by
  unfold State.validStart
  decide

theorem witness_BmsetAndBmclrWriteOneBit :
    (true, 0x60000000#32, Instr.bmset 0) ∈
        [(true, 0x60000000#32, Instr.bmset 0), (false, 0x64000000#32, .bmclr 0)] ∧
      (ticks 1 (-443640)).mem.wf ∧
      (ticks 1 (-443640)).validStart ((ticks 1 (-443640)).readT 0) ∧
      ¬ (ticks 1 443640).validStart ((ticks 1 443640).readT 0) :=
  ⟨by decide, by decide, witness_validStart.1.1, witness_validStart.2.1⟩

/-- Both ends of the slot domain. -/
theorem witness_OneBitPerSlot :
    Geometry State.reset.cfg ∧ 1 ≤ State.reset.tspace.toNat ∧ State.reset.mem.wf ∧
      State.reset.kmin ≤ -7394 ∧ (-7394 : Int) ≤ State.reset.kmax ∧ State.reset.kmin ≤ 7393 ∧
      (7393 : Int) ≤ State.reset.kmax :=
  ⟨reference_geometry, by decide, by decide, by decide, by decide, by decide, by decide⟩

theorem witness_BmtstReadsItsBit :
    (ticks 1 443580).validStart ((ticks 1 443580).readT 0) ∧
      ¬ (ticks 1 1).validStart ((ticks 1 1).readT 0) :=
  ⟨witness_validStart.1.2, witness_validStart.2.2.2⟩

/-- Slot 0 set, searched upward from the neighbouring slot -1: it is a candidate, and the nearest. -/
theorem witness_BmnextFindsTheNearest_found :
    let s := bitmap [(0x1040, 1)] (-60)
    Geometry s.cfg ∧ SpanFits s.cfg ∧ 1 ≤ s.tspace.toNat ∧ s.validStart (s.readT 1) ∧
      s.candidate .up false (slotOf s.span (s.readT 1)) 0 ∧
      ∀ k', s.candidate .up false (slotOf s.span (s.readT 1)) k' → nearer .up 0 k' := by
  refine ⟨reference_geometry, reference_span_fits, by decide, ?_, ?_, ?_⟩
  · unfold State.validStart
    decide
  · refine ⟨by decide, by decide, by decide, ?_⟩
    show slotOf (bitmap [(0x1040, 1)] (-60)).span ((bitmap [(0x1040, 1)] (-60)).readT 1) < 0
    decide
  · rintro k' ⟨-, -, -, h⟩
    have h1 : slotOf (bitmap [(0x1040, 1)] (-60)).span ((bitmap [(0x1040, 1)] (-60)).readT 1) < k' := h
    rw [show slotOf (bitmap [(0x1040, 1)] (-60)).span ((bitmap [(0x1040, 1)] (-60)).readT 1) = -1
      by decide] at h1
    show (0 : Int) ≤ k'
    omega

/-- From the highest start index there is no slot above. -/
theorem witness_BmnextFindsTheNearest_none :
    let s := ticks 1 443580
    s.validStart (s.readT 0) ∧ ∀ k, ¬ s.candidate .up false (slotOf s.span (s.readT 0)) k := by
  refine ⟨witness_validStart.1.2, ?_⟩
  rintro k ⟨-, h2, -, h4⟩
  have h3 : slotOf (ticks 1 443580).span ((ticks 1 443580).readT 0) < k := h4
  rw [show slotOf (ticks 1 443580).span ((ticks 1 443580).readT 0) = 7393 by decide] at h3
  rw [show (ticks 1 443580).kmax = 7393 by decide] at h2
  omega

theorem witness_BmnextFindsTheNearest_raises :
    ¬ (ticks 1 443640).validStart ((ticks 1 443640).readT 0) := witness_validStart.2.1

theorem witness_BmaddrPacksTheAddress :
    Geometry (ticks 1 443580).cfg ∧ 1 ≤ (ticks 1 443580).tspace.toNat ∧
      (ticks 1 443580).validStart ((ticks 1 443580).readT 0) ∧
      ¬ (ticks 1 (-443700)).validStart ((ticks 1 (-443700)).readT 0) :=
  ⟨reference_geometry, by decide, witness_validStart.1.2, witness_validStart.2.2.1⟩

theorem witness_LinearViewShowsEverySlot :
    Geometry State.reset.cfg ∧ 1 ≤ State.reset.tspace.toNat ∧ State.reset.kmin ≤ -7394 ∧
      (-7394 : Int) ≤ State.reset.kmax :=
  ⟨reference_geometry, by decide, by decide, by decide⟩

theorem witness_WordScanComputesTheSearch :
    Geometry State.reset.cfg ∧ 1 ≤ State.reset.tspace.toNat ∧ State.reset.kmin ≤ 7393 ∧
      (7393 : Int) ≤ State.reset.kmax :=
  ⟨reference_geometry, by decide, by decide, by decide⟩

/-- Reset memories hold no set bit. -/
theorem reset_bit_clear (k : Int) : (ticks 1 0).bitRead k = false := by
  show BitVec.getLsbD 0#64 _ = false
  simp

theorem witness_SetThenFoundClearedThenNot :
    let s := (ticks 1 0).writeT 1 60
    Geometry s.cfg ∧ 1 ≤ s.tspace.toNat ∧ s.mem.wf ∧
      (∀ k, s.kmin ≤ k → k ≤ s.kmax → s.bitRead k = false) ∧
      s.validStart (s.readT 0) ∧ s.validStart (s.readT 1) := by
  refine ⟨reference_geometry, by decide, by decide, fun k _ _ => reset_bit_clear k, ?_, ?_⟩ <;>
    unfold State.validStart <;> decide

/-- A presented word that raises. -/
theorem witness_FaultRecordsThePresentedWord :
    ∃ t : State, (presenting State.reset 0x1C012000).cause = 0 ∧
      (presenting State.reset 0x1C012000).pending = presentCommand 0x1C012000 :: [] ∧
      step (presenting State.reset 0x1C012000) = .next t ∧ t.cause ≠ 0 :=
  ⟨_, rfl, rfl, rfl, by decide⟩

theorem witness_AcknowledgeReturnsFromFault :
    (let s := { State.reset with cause := 6, pending := [presentAcknowledge 0] }; s.pending = presentAcknowledge 0 :: [] ∧ s.cause ≠ 0) ∧
      (let s := { State.reset with pending := [presentAcknowledge 0] }; s.pending = presentAcknowledge 0 :: [] ∧ s.cause = 0) := by decide

theorem witness_ResetLeavesTheResetValues :
    { wide .o 1 2 3 with cause := 3, pending := [.reset] }.pending = .reset :: [] := by decide

/-- A block in use, not at reset: a bit set, a spacing of 10, a fault pending, an acknowledge to come. -/
theorem witness_StepKeepsTheInvariant :
    ∃ s t : State, s.Inv ∧ step s = .next t := by
  refine ⟨{ bitmap [(0x1040, 1)] 600 with
    tspace := 10, cause := 6, ecmd := 0x60000000, baddr := 0x02000000, pending := [presentAcknowledge 0] },
    _, ⟨reference_geometry, by decide, ?_, by decide, by decide, by decide, by decide, by decide⟩, rfl⟩
  intro x hx
  obtain rfl := List.mem_singleton.1 hx
  decide

theorem witness_OnlyTheHostSetsTheSpacing :
    ∃ s t : State, step s = .next t :=
  ⟨{ State.reset with pending := [.write 0x0028 8 10] }, _, rfl⟩

/-- Two states that differ in `FLAGS` and `PC` only. -/
theorem witness_ResultsDependOnOperandsOnly :
    let s := wide .d 1 2 3
    let s' := { wide .d 1 2 3 with flags := ⟨true, true, true, false⟩, pc := 9 }
    s.t = s'.t ∧ s.d = s'.d ∧ s.q = s'.q ∧ s.o = s'.o ∧ s.tspace = s'.tspace ∧ s.mem = s'.mem ∧
      s.cfg = s'.cfg := by decide +kernel

/-- Reset with the words of `prog` presented. -/
def presentingList (prog : List CommandWord) : State :=
  { State.reset with pending := prog.map presentCommand }

/-- One word that retires, and one that raises: both ends of a run. -/
theorem witness_RunEndsNormallyOrHalted :
    ([0x08100007#32].length < 2 ^ 64 ∧ [0x1C012000#32].length < 2 ^ 64) ∧
      ((presentingList [0x08100007]).startsRun [0x08100007] ∧
        (runFor 1 (presentingList [0x08100007])).endedNormally 1) ∧
      (presentingList [0x1C012000]).startsRun [0x1C012000] ∧
        (runFor 1 (presentingList [0x1C012000])).endedHalted (presentingList [0x1C012000])
          [0x1C012000] :=
  ⟨⟨by decide, by decide⟩, ⟨⟨rfl, rfl, rfl⟩, rfl, rfl, rfl⟩, ⟨rfl, rfl, rfl⟩, by unfold State.halted; decide, rfl, rfl, rfl⟩

theorem witness_FixedListIsAHostThatDoesNotLook :
    [0x08100007#32, 0x1C012000#32].length < 2 ^ 64 ∧
      (presentingList [0x08100007, 0x1C012000]).startsRun [0x08100007, 0x1C012000] :=
  ⟨by decide, rfl, rfl, rfl⟩

/-- The last limb of each file, the last words of each memory. -/
theorem witness_PortMapIsTheTable :
    Geometry Config.reference ∧ (7 : Nat) < 8 ∧ 15 < Config.reference.primWords ∧
      13 < Config.reference.extBlocks ∧ 7 < Config.reference.extBlockWords ∧
      (0x4000 ∈ [0x2000, 0x4000]) ∧ portTarget Config.reference 0x4378 ≠ none :=
  ⟨reference_geometry, by decide, by decide, by decide, by decide, by decide, by decide⟩

theorem witness_HostReadHasNoSideEffect :
    { State.reset with pending := [.read 0x4378 8] }.pending = .read 0x4378 8 :: [] ∧
      0x4378 % 8 = 0 ∧ portTarget State.reset.cfg 0x4378 ≠ none := by decide

theorem witness_ControlRegistersAsRead :
    let s := { State.reset with tspace := 10, pending := [.read 0x28 8] }
    s.pending = .read 0x28 8 :: [] ∧ (0x28, 10) ∈ [(0x00, 0), (0x28, s.tspace.toNat)] := by decide

theorem witness_TickRegisterAtThePort :
    { State.reset with pending := [.write 0x138 8 5] }.pending = .write (0x100 + 8 * 7) 8 5 :: [] ∧
      { State.reset with pending := [.read 0x138 8] }.pending = .read (0x100 + 8 * 7) 8 :: [] := by
  decide

/-- The last limb of the last register of the widest file. -/
theorem witness_LimbAtThePort :
    (WideFile.o, 0x800) ∈ [(WideFile.d, 0x200), (.q, 0x400), (.o, 0x800)] ∧ 7 < WideFile.o.limbs ∧
      { State.reset with pending := [.write 0x9F8 8 5] }.pending =
        .write (0x800 + 8 * (WideFile.o.limbs * 7 + 7)) 8 5 :: [] ∧
      { State.reset with pending := [.read 0x9F8 8] }.pending =
        .read (0x800 + 8 * (WideFile.o.limbs * 7 + 7)) 8 :: [] := by decide

theorem witness_ZeroSpacingIsIgnored :
    { State.reset with pending := [.write 0x0028 8 0x10000] }.pending =
      .write 0x0028 8 0x10000 :: [] := by decide

theorem witness_ReadOnlyWritesAreIgnored :
    0x30 ∈ [0x08, 0x10, 0x18, 0x20, 0x30] ∧
      { State.reset with pending := [.write 0x30 8 1] }.pending = .write 0x30 8 1 :: [] := by decide

/-- The last word of `EXTN`. -/
theorem witness_BitmapWordAtThePort :
    Geometry State.reset.cfg ∧ State.reset.mem.wf ∧ 0x4378 % 8 = 0 ∧
      bitmapMapped State.reset.cfg 0x4378 = true ∧
      { State.reset with pending := [.write 0x4378 8 1] }.pending = .write 0x4378 8 1 :: [] ∧
      { State.reset with pending := [.read 0x4378 8] }.pending = .read 0x4378 8 :: [] :=
  ⟨reference_geometry, by decide, by decide, by decide, by decide, by decide⟩

end Sys2Proof.Machine.Tests
end

/-! ## A command retires or raises (00_scope.md R12, 10_state.md R26, 60_exceptions.md R270, R275) -/

namespace Sys2Proof.Machine

/-- The two ends of a command with word `word` that ran from `s`: it retired, with the control state
kept, or it raised, with nothing else written. Its lemmas go up from `complete` and `trap` through the
shared operations to `exec`. -/
def RetiresOrRaises (word : CommandWord) (s : State) (r : StepResult) : Prop :=
  ∃ t, r = .next t ∧ ((t.pc = s.pc + 1 ∧ KeepsControl s t) ∨ ∃ e, RaisesOnly e word s t)

/-- Completing retires, whatever registers, flags and bitmap words the command wrote in `u`. The two
premises are read off the field lemmas of `u`'s updates. -/
theorem retiresOrRaises_complete {word : CommandWord} {s u : State} (hpc : u.pc = s.pc := by simp)
    (hctl : KeepsControl s u := by simp [KeepsControl]) :
    RetiresOrRaises word s (complete u) :=
  ⟨u.retire, rfl, .inl ⟨by simp [hpc], by simpa [KeepsControl] using hctl⟩⟩

theorem retiresOrRaises_trap (e : Cause) (word : CommandWord) (s : State) :
    RetiresOrRaises word s (trap e word s) :=
  ⟨s.raise e word, rfl, .inr ⟨e, rfl⟩⟩

/-! ### Wide arithmetic -/

theorem wliOp_retiresOrRaises (word : CommandWord) (f : WideFile) (rd : Reg) (imm : Nat) (s : State) :
    RetiresOrRaises word s (wliOp f rd imm s) :=
  retiresOrRaises_complete

theorem addOp_retiresOrRaises (word : CommandWord) (f : WideFile) (rd ra rb : Reg) (s : State) :
    RetiresOrRaises word s (addOp f rd ra rb s) :=
  retiresOrRaises_complete

theorem subOp_retiresOrRaises (word : CommandWord) (f : WideFile) (rd ra rb : Reg) (s : State) :
    RetiresOrRaises word s (subOp f rd ra rb s) :=
  retiresOrRaises_complete

theorem mulwOp_retiresOrRaises (word : CommandWord) (wide f : WideFile) (rd ra rb : Reg)
    (s : State) : RetiresOrRaises word s (mulwOp wide f rd ra rb s) :=
  retiresOrRaises_complete

theorem divOp_retiresOrRaises (word : CommandWord) (f : WideFile) (rd ra rb : Reg) (s : State) :
    RetiresOrRaises word s (divOp f rd ra rb word s) := by
  unfold divOp
  split
  · exact retiresOrRaises_trap ..
  · exact retiresOrRaises_complete

theorem shlOp_retiresOrRaises (word : CommandWord) (f : WideFile) (rd ra : Reg) (shamt : Nat)
    (s : State) : RetiresOrRaises word s (shlOp f rd ra shamt s) :=
  shlOp_eq f rd ra shamt s ▸ retiresOrRaises_complete

theorem shrOp_retiresOrRaises (word : CommandWord) (f : WideFile) (rd ra : Reg) (shamt : Nat)
    (s : State) : RetiresOrRaises word s (shrOp f rd ra shamt s) :=
  shrOp_eq f rd ra shamt s ▸ retiresOrRaises_complete

theorem cmpOp_retiresOrRaises (word : CommandWord) (f : WideFile) (ra rb : Reg) (s : State) :
    RetiresOrRaises word s (cmpOp f ra rb s) :=
  retiresOrRaises_complete

theorem upcOp_retiresOrRaises (word : CommandWord) (wide narrow : WideFile) (rd ra : Reg)
    (s : State) : RetiresOrRaises word s (upcOp wide narrow rd ra s) :=
  retiresOrRaises_complete

theorem dncOp_retiresOrRaises (word : CommandWord) (narrow wide : WideFile) (rd ra : Reg)
    (s : State) : RetiresOrRaises word s (dncOp narrow wide rd ra s) :=
  retiresOrRaises_complete

theorem snrOp_retiresOrRaises (word : CommandWord) (narrow wide : WideFile) (rd ra : Reg)
    (s : State) : RetiresOrRaises word s (snrOp narrow wide rd ra s) :=
  snrOp_eq narrow wide rd ra s ▸ retiresOrRaises_complete

/-! ### Multiply-divide and the converter -/

/-- The narrowing half of `DIVN`, `MDF` and `MDC`: two ways to raise, one to retire. -/
theorem narrowingDivide_retiresOrRaises (word : CommandWord) (f : WideFile) (rd : Reg)
    (num den : Nat) (s : State) : RetiresOrRaises word s (narrowingDivide f rd num den word s) := by
  unfold narrowingDivide
  split
  · exact retiresOrRaises_trap ..
  · split
    · exact retiresOrRaises_trap ..
    · exact retiresOrRaises_complete

theorem execT2sp_retiresOrRaises (rd : DReg) (ra : TReg) (s : State) :
    RetiresOrRaises (encode (.t2sp rd ra)) s (execT2sp rd ra s) := by
  unfold execT2sp
  split
  · exact retiresOrRaises_complete
  · exact retiresOrRaises_trap ..

theorem execSp2t_retiresOrRaises (rd : TReg) (ra : DReg) (s : State) :
    RetiresOrRaises (encode (.sp2t rd ra)) s (execSp2t rd ra s) := by
  unfold execSp2t
  split
  · exact retiresOrRaises_complete
  · exact retiresOrRaises_trap ..

/-! ### Ticks and the bitmap -/

theorem execTas_retiresOrRaises (rd ra : TReg) (s : State) :
    RetiresOrRaises (encode (.tas rd ra)) s (execTas rd ra s) := by
  unfold execTas
  split
  · exact retiresOrRaises_complete
  · exact retiresOrRaises_trap ..

/-- A bitmap command raises on an operand that is no valid start index (43_bitmap.md R221), so only its
act on a slot is left to show. -/
theorem withSlot_retiresOrRaises {word : CommandWord} {ra : TReg} {s : State} {act : Int → StepResult}
    (hact : ∀ k, RetiresOrRaises word s (act k)) :
    RetiresOrRaises word s (withSlot ra word s act) := by
  by_cases hv : s.validStart (s.readT ra)
  · exact withSlot_valid hv ▸ hact _
  · exact withSlot_invalid hv ▸ retiresOrRaises_trap ..

/-- `BMNEXT` retires whether its search finds a slot or not (43_bitmap.md R225). -/
theorem execBmnext_retiresOrRaises (rd ra : TReg) (dir : Direction) (incl : Bool) (s : State) :
    RetiresOrRaises (encode (.bmnext rd ra dir incl)) s (execBmnext rd ra dir incl s) := by
  refine withSlot_retiresOrRaises fun k => ?_
  split
  · exact retiresOrRaises_complete
  · exact retiresOrRaises_complete

/-! ### Every command -/

/-- Every command answers a next state, in which it retired or raised. -/
theorem exec_retiresOrRaises (i : Instr) (s : State) :
    RetiresOrRaises (encode i) s (exec i s) := by
  cases i with
  | wli128 | wli256 | wli512 => exact wliOp_retiresOrRaises ..
  | add128 | add256 | add512 => exact addOp_retiresOrRaises ..
  | sub128 | sub256 | sub512 => exact subOp_retiresOrRaises ..
  | mulw128 | mulw256 => exact mulwOp_retiresOrRaises ..
  | div128 | div256 | div512 => exact divOp_retiresOrRaises ..
  | shl128 | shl256 | shl512 => exact shlOp_retiresOrRaises ..
  | shr128 | shr256 | shr512 => exact shrOp_retiresOrRaises ..
  | cmp128 | cmp256 | cmp512 => exact cmpOp_retiresOrRaises ..
  | upcDq | upcQo | upcDo => exact upcOp_retiresOrRaises ..
  | dncQd | dncOq | dncOd => exact dncOp_retiresOrRaises ..
  | snrQd | snrOq | snrOd => exact snrOp_retiresOrRaises ..
  | mdf128 | mdf256 | mdc128 | mdc256 | divn128 | divn256 =>
    exact narrowingDivide_retiresOrRaises ..
  | t2sp => exact execT2sp_retiresOrRaises ..
  | sp2t => exact execSp2t_retiresOrRaises ..
  | tas => exact execTas_retiresOrRaises ..
  | bmset | bmclr | bmtst | bmaddr =>
    exact withSlot_retiresOrRaises fun k => retiresOrRaises_complete
  | bmnext => exact execBmnext_retiresOrRaises ..
  | tli | nop => exact retiresOrRaises_complete

/-- Settles O43: the case split over the commands is `exec_retiresOrRaises`. -/
theorem commandRetiresOrRaises : Obligations.CommandRetiresOrRaises :=
  exec_retiresOrRaises

end Sys2Proof.Machine

/-! ## Where a slot of the domain lies (20_memory.md R63, 43_bitmap.md R215) -/

namespace Sys2Proof.Machine

/-- The geometry's limits on a slot address: the region's blocks and words and the 64 bits of a word. -/
def SlotAddress.Fits (c : Config) (a : SlotAddress) : Prop :=
  a.bit < 64 ∧
    match a.region with
    | .prim => a.block = 0 ∧ a.word < c.primWords
    | .extp | .extn => a.block < c.extBlocks ∧ a.word < c.extBlockWords

/-- Below zero, floor division counts the blocks away from it: within `n` blocks of `B`, the count is
below `n`. -/
theorem neg_fdiv_range {g B n : Int} (hB : 0 < B) (hlo : -(n * B) ≤ g) (hneg : g < 0) :
    0 ≤ -(Int.fdiv g B) - 1 ∧ -(Int.fdiv g B) - 1 < n := by
  have hquo : Int.fdiv g B < 0 := Int.fdiv_neg_of_neg_of_pos hneg hB
  have hquo' : -n ≤ Int.fdiv g B := by
    rw [Int.fdiv_eq_ediv_of_nonneg _ hB.le, Int.le_ediv_iff_mul_le hB, neg_mul]
    exact hlo
  omega

/-- Every slot of the domain has an address within the geometry's limits. -/
theorem slotAddress_fits {s : State} (hg : Geometry s.cfg) (ht : 1 ≤ s.tspace.toNat) {k : Int}
    (hmin : s.kmin ≤ k) (hmax : k ≤ s.kmax) : (slotAddress s.cfg k).Fits s.cfg := by
  obtain ⟨hlo, hhi⟩ := domain_covered hg ht hmin hmax
  have heven := hg.prim_even
  have hwords := hg.blockWords_pos
  have hbits : 0 < s.cfg.extBlockBits := Nat.mul_pos (by decide) hwords
  refine ⟨slotAddress_bit_lt _ _, ?_⟩
  unfold slotAddress
  dsimp only
  split_ifs with hprim hpos
  · -- the slot is in `PRIM`
    simp only [Config.primBits] at hprim
    exact ⟨rfl, Nat.div_lt_of_lt_mul (by omega)⟩
  · -- the slot is above `PRIM`, in `EXTP`
    have hside : (k + s.cfg.half - s.cfg.primBits).toNat < s.cfg.extBlockBits * s.cfg.extBlocks := by
      simp only [Config.half, Config.primBits, Config.sideBits, Nat.mul_comm s.cfg.extBlocks] at *
      omega
    have hmod := Nat.mod_lt (k + s.cfg.half - s.cfg.primBits).toNat hbits
    exact ⟨Nat.div_lt_of_lt_mul hside, Nat.div_lt_of_lt_mul hmod⟩
  · -- the slot is below `PRIM`, in `EXTN`
    have hbitsInt : (0 : Int) < s.cfg.extBlockBits := by exact_mod_cast hbits
    have hside : -((s.cfg.extBlocks : Int) * s.cfg.extBlockBits) ≤ k + s.cfg.half := by
      simp only [Config.sideBits] at hlo
      push_cast at hlo
      linarith
    have hblock := neg_fdiv_range hbitsInt hside (by omega)
    have hmod := Int.fmod_lt_of_pos (k + s.cfg.half) hbitsInt
    have hpos : (Int.fmod (k + s.cfg.half) s.cfg.extBlockBits).toNat < s.cfg.extBlockBits := by omega
    simp only [SlotAddress.ofPos]
    exact ⟨by omega, Nat.div_lt_of_lt_mul hpos⟩

/-- The mapped offsets of the three bitmap memories (20_memory.md R63). -/
theorem bitmapMapped_iff {c : Config} {a : Nat} : bitmapMapped c a = true ↔
    (0x1000 ≤ a ∧ a < 0x1000 + 8 * c.primWords) ∨
    (0x2000 ≤ a ∧ a < 0x2000 + 8 * (c.extBlocks * c.extBlockWords)) ∨
    (0x4000 ≤ a ∧ a < 0x4000 + 8 * (c.extBlocks * c.extBlockWords)) := by
  simp only [bitmapMapped, Bool.or_eq_true, decide_eq_true_eq, or_assoc]

/-- An address within the geometry's limits names a word of the mapped bitmap memories. -/
theorem SlotAddress.Fits.offset_mapped {c : Config} {a : SlotAddress} (ha : a.Fits c) :
    bitmapMapped c (a.offset c) = true := by
  obtain ⟨region, block, word, bit⟩ := a
  obtain ⟨-, hr⟩ := ha
  have hside : block < c.extBlocks ∧ word < c.extBlockWords →
      block * c.extBlockWords + word < c.extBlocks * c.extBlockWords := fun ⟨hb, hw⟩ => by nlinarith
  rw [bitmapMapped_iff]
  cases region <;> simp only [SlotAddress.offset] at hr ⊢
  case prim => omega
  case extp | extn =>
    have := hside hr
    omega

/-- The word of a slot address is aligned. -/
theorem SlotAddress.offset_aligned (c : Config) (a : SlotAddress) : a.offset c % 8 = 0 := by
  unfold SlotAddress.offset
  split <;> omega

/-- An aligned offset is mapped with the whole of its word: the mapped parts are made of words. -/
theorem bitmapMapped_word {c : Config} {a b : Nat} (ha : a % 8 = 0) (h : bitmapMapped c a = true)
    (hlo : a ≤ b) (hhi : b < a + 8) : bitmapMapped c b = true := by
  rw [bitmapMapped_iff] at h ⊢
  omega

/-- Each part of an address within the geometry's limits fits its field of `BADDR` (10_state.md R34). -/
theorem SlotAddress.Fits.fields_lt {c : Config} (hg : Geometry c) {a : SlotAddress} (ha : a.Fits c) :
    a.region.code < 3 ∧ a.block < 256 ∧ a.word < 256 ∧ a.bit < 64 := by
  have hprim := hg.prim_le
  have hblocks := hg.blocks_le
  have hwords := hg.blockWords_le
  obtain ⟨hbit, hr⟩ := ha
  cases h : a.region <;> simp only [h, Region.code] at hr ⊢ <;> omega

/-- `BADDR`'s fields stand side by side (10_state.md R34): none of them overflows into the next. -/
theorem SlotAddress.Fits.toBaddr_toNat {c : Config} (hg : Geometry c) {a : SlotAddress}
    (ha : a.Fits c) : a.toBaddr.toNat =
      a.region.code * 2 ^ 24 + a.block * 2 ^ 16 + a.word * 2 ^ 8 + a.bit := by
  obtain ⟨hcode, hblock, hword, hbit⟩ := ha.fields_lt hg
  have hor : a.region.code <<< 24 ||| a.block <<< 16 ||| a.word <<< 8 ||| a.bit =
      a.region.code * 2 ^ 24 + a.block * 2 ^ 16 + a.word * 2 ^ 8 + a.bit := by
    rw [Nat.or_assoc, Nat.or_assoc, ← Nat.shiftLeft_add_eq_or_of_lt (b := a.bit) (i := 8) (by omega),
      ← Nat.shiftLeft_add_eq_or_of_lt (i := 16) (by rw [Nat.shiftLeft_eq]; omega),
      ← Nat.shiftLeft_add_eq_or_of_lt (i := 24) (by simp only [Nat.shiftLeft_eq]; omega)]
    simp only [Nat.shiftLeft_eq]
    omega
  rw [SlotAddress.toBaddr, hor, BitVec.toNat_ofNat]
  omega

/-- The reserved bits 7:6 of a slot's `BADDR` are zero (10_state.md R34). -/
theorem SlotAddress.Fits.toBaddr_reserved {c : Config} (hg : Geometry c) {a : SlotAddress}
    (ha : a.Fits c) : a.toBaddr.extractLsb' 6 2 = 0#2 := by
  obtain ⟨hcode, hblock, hword, hbit⟩ := ha.fields_lt hg
  apply BitVec.eq_of_toNat_eq
  rw [BitVec.extractLsb'_toNat, ha.toBaddr_toNat hg, Nat.shiftRight_eq_div_pow, BitVec.toNat_ofNat]
  omega

/-- The `REGION` field of a slot's `BADDR` is the region's code (10_state.md R34). -/
theorem SlotAddress.Fits.toBaddr_region {c : Config} (hg : Geometry c) {a : SlotAddress}
    (ha : a.Fits c) : (a.toBaddr.extractLsb' 24 2).toNat = a.region.code := by
  obtain ⟨hcode, hblock, hword, hbit⟩ := ha.fields_lt hg
  rw [BitVec.extractLsb'_toNat, ha.toBaddr_toNat hg, Nat.shiftRight_eq_div_pow]
  omega

end Sys2Proof.Machine

/-! ## What a command does, as a function of its operands (10_state.md R20, R27) -/

namespace Sys2Proof.Machine

/-- Two states agree on what a command may read: the registers, the memories, `TSPACE` and the
configuration (10_state.md R20, 44_system.md R253). -/
structure OperandsAgree (s s' : State) : Prop where
  t : s'.t = s.t
  d : s'.d = s.d
  q : s'.q = s.q
  o : s'.o = s.o
  tspace : s'.tspace = s.tspace
  mem : s'.mem = s.mem
  cfg : s'.cfg = s.cfg

/-! ### What the operand reads see -/

namespace OperandsAgree

variable {s s' : State}

theorem refl (s : State) : OperandsAgree s s := ⟨rfl, rfl, rfl, rfl, rfl, rfl, rfl⟩

theorem readT (h : OperandsAgree s s') : s'.readT = s.readT := funext (readT_congr h.t)

theorem readWide (h : OperandsAgree s s') : s'.readWide = s.readWide :=
  funext₂ (readWide_congr h.d h.q h.o)

theorem span (h : OperandsAgree s s') : s'.span = s.span := span_congr h.tspace h.cfg

theorem kmin (h : OperandsAgree s s') : s'.kmin = s.kmin := kmin_congr h.tspace h.cfg

theorem kmax (h : OperandsAgree s s') : s'.kmax = s.kmax := kmax_congr h.tspace h.cfg

theorem bitRead (h : OperandsAgree s s') : s'.bitRead = s.bitRead :=
  funext (bitRead_congr h.mem h.cfg)

theorem validStart (h : OperandsAgree s s') (x : Int) : s'.validStart x ↔ s.validStart x := by
  simp only [State.validStart, h.span, h.kmin, h.kmax]

theorem searchUp (h : OperandsAgree s s') (n : Nat) (k : Int) : s'.searchUp n k = s.searchUp n k := by
  induction n generalizing k with
  | zero => rfl
  | succ n ih => simp only [State.searchUp, h.bitRead, ih]

theorem searchDown (h : OperandsAgree s s') (n : Nat) (k : Int) :
    s'.searchDown n k = s.searchDown n k := by
  induction n generalizing k with
  | zero => rfl
  | succ n ih => simp only [State.searchDown, h.bitRead, ih]

theorem search (h : OperandsAgree s s') (dir : Direction) (incl : Bool) (k : Int) :
    s'.search dir incl k = s.search dir incl k := by
  cases dir <;> simp only [State.search, h.kmin, h.kmax, h.searchUp, h.searchDown]

end OperandsAgree

/-! ### What a retiring command writes -/

/-- What a command that retires has written: one of nine shapes, with the values written. -/
inductive Writes where
  | nothing
  | wide (f : WideFile) (rd : Reg) (v : Nat)
  | wideCarry (f : WideFile) (rd : Reg) (v : Nat) (c : Bool)
  | compare (z l : Bool)
  | tick (rd : TReg) (v : Int)
  | tickFound (rd : TReg) (v : Int)
  | found (b : Bool)
  | slotBit (k : Int) (b : Bool)
  | slotAddr (k : Int)

/-- The writes made in a state, before retiring. -/
def Writes.apply (s : State) : Writes → State
  | .nothing => s
  | .wide f rd v => s.writeWide f rd v
  | .wideCarry f rd v c => (s.writeWide f rd v).setC c
  | .compare z l => s.setZL z l
  | .tick rd v => s.writeT rd v
  | .tickFound rd v => (s.writeT rd v).setF true
  | .found b => s.setF b
  | .slotBit k b => s.bitWrite k b
  | .slotAddr k => s.writeBaddr (slotAddress s.cfg k).toBaddr

/-- What limits the values a command writes: a compare is not both equal and less (40_wide_arith.md
R128), and a bitmap command acts on a slot of the domain (43_bitmap.md R221). -/
def Writes.Allowed (s : State) : Writes → Prop
  | .compare z l => ¬ (z = true ∧ l = true)
  | .slotBit k _ | .slotAddr k => s.kmin ≤ k ∧ k ≤ s.kmax
  | _ => True

/-- The command meaning `m`, run for `word`, has one end in every state with the operands of `s`: it
raises one cause, or it makes one set of writes and retires. The lemmas below go up from the shared
operations to `exec`. -/
def FixedByOperands (word : CommandWord) (s : State) (m : State → StepResult) : Prop :=
  (∃ e, ∀ s', OperandsAgree s s' → m s' = trap e word s') ∨
    ∃ x : Writes, x.Allowed s ∧ ∀ s', OperandsAgree s s' → m s' = complete (x.apply s')

theorem fixedByOperands_trap {word : CommandWord} {s : State} {m : State → StepResult} (e : Cause)
    (h : ∀ s', OperandsAgree s s' → m s' = trap e word s') : FixedByOperands word s m :=
  .inl ⟨e, h⟩

theorem fixedByOperands_complete {word : CommandWord} {s : State} {m : State → StepResult} (x : Writes)
    (hx : x.Allowed s) (h : ∀ s', OperandsAgree s s' → m s' = complete (x.apply s')) :
    FixedByOperands word s m :=
  .inr ⟨x, hx, h⟩

/-! ### Wide arithmetic -/

theorem wliOp_fixed (word : CommandWord) (f : WideFile) (rd : Reg) (imm : Nat) (s : State) :
    FixedByOperands word s (wliOp f rd imm) :=
  fixedByOperands_complete (.wide f rd imm) trivial fun _ _ => rfl

theorem addOp_fixed (word : CommandWord) (f : WideFile) (rd ra rb : Reg) (s : State) :
    FixedByOperands word s (addOp f rd ra rb) :=
  fixedByOperands_complete (.wideCarry f rd _ _) trivial fun s' h => by
    rw [addOp, h.readWide]; rfl

theorem subOp_fixed (word : CommandWord) (f : WideFile) (rd ra rb : Reg) (s : State) :
    FixedByOperands word s (subOp f rd ra rb) :=
  fixedByOperands_complete (.wideCarry f rd _ _) trivial fun s' h => by
    rw [subOp, h.readWide]; rfl

theorem mulwOp_fixed (word : CommandWord) (wide f : WideFile) (rd ra rb : Reg) (s : State) :
    FixedByOperands word s (mulwOp wide f rd ra rb) :=
  fixedByOperands_complete (.wide wide rd _) trivial fun s' h => by
    rw [mulwOp, h.readWide]; rfl

theorem divOp_fixed (word : CommandWord) (f : WideFile) (rd ra rb : Reg) (s : State) :
    FixedByOperands word s (divOp f rd ra rb word) := by
  by_cases h0 : s.readWide f rb = 0
  · exact fixedByOperands_trap .divisionByZero fun s' h => by rw [divOp, h.readWide, if_pos h0]
  · exact fixedByOperands_complete (.wide f rd _) trivial fun s' h => by
      rw [divOp, h.readWide, if_neg h0]; rfl

theorem shlOp_fixed (word : CommandWord) (f : WideFile) (rd ra : Reg) (shamt : Nat) (s : State) :
    FixedByOperands word s (shlOp f rd ra shamt) :=
  fixedByOperands_complete (.wide f rd _) trivial fun s' h => by
    rw [shlOp_eq, h.readWide]; rfl

theorem shrOp_fixed (word : CommandWord) (f : WideFile) (rd ra : Reg) (shamt : Nat) (s : State) :
    FixedByOperands word s (shrOp f rd ra shamt) :=
  fixedByOperands_complete (.wide f rd _) trivial fun s' h => by
    rw [shrOp_eq, h.readWide]; rfl

/-- Two numbers are not both equal and in order, so `CMP` never sets both `Z` and `L`. -/
theorem cmpOp_fixed (word : CommandWord) (f : WideFile) (ra rb : Reg) (s : State) :
    FixedByOperands word s (cmpOp f ra rb) := by
  refine fixedByOperands_complete (.compare (equalOf (s.readWide f ra) (s.readWide f rb))
    (lessOf (s.readWide f ra) (s.readWide f rb))) ?_ fun s' h => by rw [cmpOp, h.readWide]; rfl
  simp only [Writes.Allowed, equalOf, lessOf, decide_eq_true_eq]
  omega

theorem upcOp_fixed (word : CommandWord) (wide narrow : WideFile) (rd ra : Reg) (s : State) :
    FixedByOperands word s (upcOp wide narrow rd ra) :=
  fixedByOperands_complete (.wide wide rd _) trivial fun s' h => by
    rw [upcOp, h.readWide]; rfl

theorem dncOp_fixed (word : CommandWord) (narrow wide : WideFile) (rd ra : Reg) (s : State) :
    FixedByOperands word s (dncOp narrow wide rd ra) :=
  fixedByOperands_complete (.wide narrow rd _) trivial fun s' h => by
    rw [dncOp, h.readWide]; rfl

theorem snrOp_fixed (word : CommandWord) (narrow wide : WideFile) (rd ra : Reg) (s : State) :
    FixedByOperands word s (snrOp narrow wide rd ra) :=
  fixedByOperands_complete (.wide narrow rd _) trivial fun s' h => by
    rw [snrOp_eq, h.readWide]; rfl

/-! ### Multiply-divide and the converter -/

/-- The narrowing half of `DIVN`, `MDF` and `MDC`, for a numerator and a denominator read from the
operands. -/
theorem narrowingDivide_fixed {word : CommandWord} {f : WideFile} {rd : Reg} {num den : State → Nat}
    {s : State} (hnum : ∀ s', OperandsAgree s s' → num s' = num s)
    (hden : ∀ s', OperandsAgree s s' → den s' = den s) :
    FixedByOperands word s (fun s' => narrowingDivide f rd (num s') (den s') word s') := by
  by_cases h0 : den s = 0
  · exact fixedByOperands_trap .divisionByZero fun s' h => by
      simp only [narrowingDivide, hden s' h, if_pos h0]
  · by_cases h1 : 2 ^ f.bits ≤ num s / den s
    · exact fixedByOperands_trap .arithmeticOverflow fun s' h => by
        simp only [narrowingDivide, hnum s' h, hden s' h, if_neg h0, if_pos h1]
    · exact fixedByOperands_complete (.wide f rd (num s / den s)) trivial fun s' h => by
        simp only [narrowingDivide, hnum s' h, hden s' h, if_neg h0, if_neg h1, Writes.apply]

theorem divnOp_fixed (word : CommandWord) (f wide : WideFile) (rd ra rb : Reg) (s : State) :
    FixedByOperands word s (divnOp f wide rd ra rb word) :=
  narrowingDivide_fixed (num := fun s => s.readWide wide ra) (den := fun s => s.readWide f rb)
    (fun _ h => by rw [h.readWide]) (fun _ h => by rw [h.readWide])

theorem mdfOp_fixed (word : CommandWord) (f : WideFile) (rd rv rn rm : Reg) (s : State) :
    FixedByOperands word s (mdfOp f rd rv rn rm word) :=
  narrowingDivide_fixed (num := fun s => s.readWide f rv * s.readWide f rn)
    (den := fun s => s.readWide f rm)
    (fun _ h => by rw [h.readWide]) (fun _ h => by rw [h.readWide])

theorem mdcOp_fixed (word : CommandWord) (f : WideFile) (rd rv rn rm : Reg) (s : State) :
    FixedByOperands word s (mdcOp f rd rv rn rm word) :=
  narrowingDivide_fixed
    (num := fun s => s.readWide f rv * s.readWide f rn + (s.readWide f rm - 1))
    (den := fun s => s.readWide f rm)
    (fun _ h => by rw [h.readWide]) (fun _ h => by rw [h.readWide])

theorem execT2sp_fixed (rd : DReg) (ra : TReg) (s : State) :
    FixedByOperands (encode (.t2sp rd ra)) s (execT2sp rd ra) := by
  by_cases h0 : tickInDomain (s.readT ra) = true
  · exact fixedByOperands_complete (.wide .d rd _) trivial fun s' h => by
      rw [execT2sp, h.readT, h.cfg, if_pos h0]; rfl
  · exact fixedByOperands_trap .invalidTick fun s' h => by rw [execT2sp, h.readT, if_neg h0]

theorem execSp2t_fixed (rd : TReg) (ra : DReg) (s : State) :
    FixedByOperands (encode (.sp2t rd ra)) s (execSp2t rd ra) := by
  by_cases h0 : priceInDomain (s.readWide .d ra) = true
  · exact fixedByOperands_complete (.tick rd _) trivial fun s' h => by
      rw [execSp2t, h.readWide, h.cfg, if_pos h0]; rfl
  · exact fixedByOperands_trap .invalidSqrtPrice fun s' h => by
      rw [execSp2t, h.readWide, if_neg h0]

/-! ### Ticks and the bitmap -/

theorem execTli_fixed (word : CommandWord) (rd : TReg) (imm : Int) (s : State) :
    FixedByOperands word s (execTli rd imm) :=
  fixedByOperands_complete (.tick rd imm) trivial fun _ _ => rfl

theorem execTas_fixed (rd ra : TReg) (s : State) :
    FixedByOperands (encode (.tas rd ra)) s (execTas rd ra) := by
  by_cases h0 : tickInDomain (s.readT ra) = true
  · exact fixedByOperands_complete (.tick rd _) trivial fun s' h => by
      rw [execTas, h.readT, h.span, if_pos h0]; rfl
  · exact fixedByOperands_trap .invalidTick fun s' h => by rw [execTas, h.readT, if_neg h0]

/-- A bitmap command's end is fixed once its act on a slot of the domain is (43_bitmap.md R221). -/
theorem withSlot_fixed {word : CommandWord} {ra : TReg} {s : State} {act : State → Int → StepResult}
    (hact : ∀ k, s.kmin ≤ k → k ≤ s.kmax → FixedByOperands word s (fun s' => act s' k)) :
    FixedByOperands word s (fun s' => withSlot ra word s' (act s')) := by
  by_cases hv : s.validStart (s.readT ra)
  · have hslot : ∀ s', OperandsAgree s s' →
        withSlot ra word s' (act s') = act s' (slotOf s.span (s.readT ra)) := fun s' h => by
      rw [withSlot_valid (by rwa [h.readT, h.validStart]), h.readT, h.span]
    obtain ⟨-, hlo, hhi⟩ := id hv
    rcases hact _ hlo hhi with ⟨e, he⟩ | ⟨x, hx, hs⟩
    · exact fixedByOperands_trap e fun s' h => (hslot s' h).trans (he s' h)
    · exact fixedByOperands_complete x hx fun s' h => (hslot s' h).trans (hs s' h)
  · exact fixedByOperands_trap .invalidStartIndex fun s' h =>
      withSlot_invalid (by rwa [h.readT, h.validStart])

theorem execBmset_fixed (ra : TReg) (s : State) :
    FixedByOperands (encode (.bmset ra)) s (execBmset ra) :=
  withSlot_fixed fun k hlo hhi =>
    fixedByOperands_complete (.slotBit k true) ⟨hlo, hhi⟩ fun _ _ => rfl

theorem execBmclr_fixed (ra : TReg) (s : State) :
    FixedByOperands (encode (.bmclr ra)) s (execBmclr ra) :=
  withSlot_fixed fun k hlo hhi =>
    fixedByOperands_complete (.slotBit k false) ⟨hlo, hhi⟩ fun _ _ => rfl

theorem execBmtst_fixed (ra : TReg) (s : State) :
    FixedByOperands (encode (.bmtst ra)) s (execBmtst ra) :=
  withSlot_fixed fun k _ _ =>
    fixedByOperands_complete (.found (s.bitRead k)) trivial fun s' h => by rw [h.bitRead]; rfl

theorem execBmaddr_fixed (ra : TReg) (s : State) :
    FixedByOperands (encode (.bmaddr ra)) s (execBmaddr ra) :=
  withSlot_fixed fun k hlo hhi =>
    fixedByOperands_complete (.slotAddr k) ⟨hlo, hhi⟩ fun _ _ => rfl

/-- `BMNEXT` writes by what its search finds, which the operands fix (43_bitmap.md R225). -/
theorem execBmnext_fixed (rd ra : TReg) (dir : Direction) (incl : Bool) (s : State) :
    FixedByOperands (encode (.bmnext rd ra dir incl)) s (execBmnext rd ra dir incl) := by
  refine withSlot_fixed fun k0 _ _ => ?_
  cases hk : s.search dir incl k0 with
  | none =>
    exact fixedByOperands_complete (.found false) trivial fun s' h => by
      rw [h.search, hk]; rfl
  | some k =>
    exact fixedByOperands_complete (.tickFound rd (k * s.span)) trivial fun s' h => by
      rw [h.search, hk, ← h.span]; rfl

/-! ### Every command -/

theorem execNop_fixed (word : CommandWord) (s : State) : FixedByOperands word s execNop :=
  fixedByOperands_complete .nothing trivial fun _ _ => rfl

/-- The operands fix what every command does. -/
theorem exec_fixed (i : Instr) (s : State) : FixedByOperands (encode i) s (exec i) := by
  cases i with
  | wli128 | wli256 | wli512 => exact wliOp_fixed ..
  | add128 | add256 | add512 => exact addOp_fixed ..
  | sub128 | sub256 | sub512 => exact subOp_fixed ..
  | mulw128 | mulw256 => exact mulwOp_fixed ..
  | div128 | div256 | div512 => exact divOp_fixed ..
  | shl128 | shl256 | shl512 => exact shlOp_fixed ..
  | shr128 | shr256 | shr512 => exact shrOp_fixed ..
  | cmp128 | cmp256 | cmp512 => exact cmpOp_fixed ..
  | upcDq | upcQo | upcDo => exact upcOp_fixed ..
  | dncQd | dncOq | dncOd => exact dncOp_fixed ..
  | snrQd | snrOq | snrOd => exact snrOp_fixed ..
  | divn128 | divn256 => exact divnOp_fixed ..
  | mdf128 | mdf256 => exact mdfOp_fixed ..
  | mdc128 | mdc256 => exact mdcOp_fixed ..
  | t2sp => exact execT2sp_fixed ..
  | sp2t => exact execSp2t_fixed ..
  | tli => exact execTli_fixed ..
  | tas => exact execTas_fixed ..
  | bmset => exact execBmset_fixed ..
  | bmclr => exact execBmclr_fixed ..
  | bmtst => exact execBmtst_fixed ..
  | bmnext => exact execBmnext_fixed ..
  | bmaddr => exact execBmaddr_fixed ..
  | nop => exact execNop_fixed ..

/-- What a command can do: raise one of the causes, or make writes of an allowed kind and retire. -/
theorem exec_cases (i : Instr) (s : State) :
    (∃ e, exec i s = .next (s.raise e (encode i))) ∨
      ∃ x : Writes, x.Allowed s ∧ exec i s = .next (x.apply s).retire := by
  rcases exec_fixed i s with ⟨e, he⟩ | ⟨x, hx, hs⟩
  · exact .inl ⟨e, he s (.refl s)⟩
  · exact .inr ⟨x, hx, hs s (.refl s)⟩

end Sys2Proof.Machine

/-! ## Every step keeps the invariant (10_state.md R29, R32, R34) -/

namespace Sys2Proof.Machine

/-! ### The invariant under each state update -/

/-- A write of a mapped, aligned word stays inside the mapped words. -/
theorem memMapped_writeWord {c : Config} {m : Memory} (hm : MemMapped c m) {a : Nat} (ha : a % 8 = 0)
    (hmap : bitmapMapped c a = true) (v : PortWord) : MemMapped c (m.writeWord a v) := by
  intro x hx
  rcases writeWord_addresses m a v x hx with ⟨hlo, hhi⟩ | hold
  · exact bitmapMapped_word ha hmap hlo hhi
  · exact hm x hold

/-- Reset leaves a state that meets the invariant, at every geometry that meets its constraints. -/
theorem inv_resetWith {c : Config} (hc : Geometry c) (pending : List HostEvent) :
    (State.resetWith c pending).Inv where
  geometry := hc
  memory := ⟨.nil, fun _ hx => nomatch hx⟩
  mapped := fun _ hx => nomatch hx
  cause_le := Nat.zero_le 6
  tspace_pos := Nat.le_refl 1
  baddr_reserved := show (0#26).extractLsb' 6 2 = 0#2 by decide
  baddr_region := show (0#26).extractLsb' 24 2 ≠ 3#2 by decide
  flags_exclusive := fun ⟨hz, _⟩ => Bool.false_ne_true hz

namespace State.Inv

variable {s : State}

theorem writeT (h : s.Inv) (rd : TReg) (v : Int) : (s.writeT rd v).Inv := { h with }

theorem writeWide (h : s.Inv) (f : WideFile) (rd : Reg) (v : Nat) : (s.writeWide f rd v).Inv := by
  cases f <;> exact { h with }

theorem setF (h : s.Inv) (b : Bool) : (s.setF b).Inv := { h with }

theorem setC (h : s.Inv) (b : Bool) : (s.setC b).Inv := { h with }

theorem setZL (h : s.Inv) {z l : Bool} (hzl : ¬ (z = true ∧ l = true)) : (s.setZL z l).Inv :=
  { h with flags_exclusive := hzl }

theorem writeBaddr (h : s.Inv) {a : SlotAddress} (ha : a.Fits s.cfg) :
    (s.writeBaddr a.toBaddr).Inv :=
  { h with
    baddr_reserved := ha.toBaddr_reserved h.geometry
    baddr_region := fun h3 => by
      have hcode := (ha.fields_lt h.geometry).1
      have hregion := ha.toBaddr_region h.geometry
      simp only [writeBaddr_baddr] at h3
      rw [h3, BitVec.toNat_ofNat] at hregion
      omega }

theorem writeWord (h : s.Inv) {a : Nat} (ha : a % 8 = 0) (hmap : bitmapMapped s.cfg a = true)
    (v : PortWord) : (s.withMem (s.mem.writeWord a v)).Inv :=
  { h with
    memory := writeWord_wf h.memory a v
    mapped := memMapped_writeWord h.mapped ha hmap v }

theorem retire (h : s.Inv) : s.retire.Inv := { h with }

theorem raise (h : s.Inv) (e : Cause) (word : CommandWord) : (s.raise e word).Inv :=
  { h with cause_le := e.code_range.2 }

theorem acknowledge (h : s.Inv) : s.acknowledge.Inv := by
  unfold State.acknowledge
  split
  · exact h
  · exact { h with cause_le := Nat.zero_le 6 }

theorem took (h : s.Inv) (rest : List HostEvent) : (s.took rest).Inv := { h with }

theorem answered (h : s.Inv) (v : PortWord) : (s.answered v).Inv := { h with }

/-- The port ignores a zero spacing, so the spacing stays positive (10_state.md R32). -/
theorem hostWriteTspace (h : s.Inv) (v : PortWord) : (s.hostWriteTspace v).Inv := by
  unfold State.hostWriteTspace
  split
  · exact h
  · next hv => exact { h with tspace_pos := Nat.pos_of_ne_zero fun h0 => hv (BitVec.eq_of_toNat_eq h0) }

theorem hostWriteT (h : s.Inv) (r : TReg) (v : PortWord) : (s.hostWriteT r v).Inv := { h with }

/-! ### The invariant under a command and under a host access -/

/-- Allowed writes keep the invariant: a bitmap command's slot has an address within the geometry. -/
theorem apply (h : s.Inv) {x : Writes} (hx : x.Allowed s) : (x.apply s).Inv := by
  cases x with
  | nothing => exact h
  | wide f rd v => exact h.writeWide f rd v
  | wideCarry f rd v c => exact (h.writeWide f rd v).setC c
  | compare z l => exact h.setZL hx
  | tick rd v => exact h.writeT rd v
  | tickFound rd v => exact (h.writeT rd v).setF true
  | found b => exact h.setF b
  | slotBit k b =>
    have hfits := slotAddress_fits h.geometry h.tspace_pos hx.1 hx.2
    exact h.writeWord (SlotAddress.offset_aligned _ _) hfits.offset_mapped _
  | slotAddr k => exact h.writeBaddr (slotAddress_fits h.geometry h.tspace_pos hx.1 hx.2)

theorem runCommand (h : s.Inv) {c : CommandWord} {t : State} (hr : runCommand c s = .next t) :
    t.Inv := by
  rcases runCommand_cases hr with ⟨i, -, hi⟩ | ⟨why, -, rfl⟩
  · rcases exec_cases i s with ⟨e, he⟩ | ⟨x, hx, hs⟩
    · obtain rfl := Host.Outcome.next.inj (he.symm.trans hi)
      exact h.raise e _
    · obtain rfl := Host.Outcome.next.inj (hs.symm.trans hi)
      exact (h.apply hx).retire
  · exact h.raise _ _

end State.Inv

/-- A bitmap word the port names is the one at the access's own offset, and it is mapped. -/
theorem portTarget_eq_bitmapWord {c : Config} {a b : Nat} (h : portTarget c a = some (.bitmapWord b)) :
    b = a ∧ bitmapMapped c a = true := by
  unfold portTarget at h
  split_ifs at h with h1 h2 h3 h4 h5 h6
  · have hcontrol := Option.some.inj h
    unfold controlTarget at hcontrol
    split at hcontrol <;> nomatch hcontrol
  · nomatch Option.some.inj h
  · nomatch Option.some.inj h
  · nomatch Option.some.inj h
  · nomatch Option.some.inj h
  · exact ⟨(PortTarget.bitmapWord.inj (Option.some.inj h)).symm, h6.2⟩

/-- An accepted access is 8 bytes wide and aligned (20_memory.md R62). -/
theorem accessTarget_eq_some {c : Config} {a bytes : Nat} {x : PortTarget}
    (h : accessTarget c a bytes = some x) : bytes = 8 ∧ a % 8 = 0 ∧ portTarget c a = some x := by
  unfold accessTarget at h
  split at h
  · next hab => exact ⟨hab.1, hab.2, h⟩
  · nomatch h

/-- What an accepted host write can leave (20_memory.md R63, R66 to R69; 60_exceptions.md R273). -/
theorem portWrite_cases {s t : State} {v : PortWord} {x : PortTarget}
    (h : portWrite s v x = .accepted t) :
    t = s ∨ t = s.hostWriteTspace v ∨ t = s.acknowledge ∨ (∃ r, t = s.hostWriteT r v) ∨
      (∃ f r n, t = s.writeWide f r n) ∨
      ∃ a, x = .bitmapWord a ∧ t = s.withMem (s.mem.writeWord a v) := by
  cases x with
  | cmd =>
    unfold portWrite at h
    split_ifs at h
  | flags | cause | ecmd | pc | baddr => exact .inl (PortEffect.accepted.inj h).symm
  | tspace => exact .inr (.inl (PortEffect.accepted.inj h).symm)
  | trapack => exact .inr (.inr (.inl (PortEffect.accepted.inj h).symm))
  | tick r => exact .inr (.inr (.inr (.inl ⟨r, (PortEffect.accepted.inj h).symm⟩)))
  | limb f r j =>
    exact .inr (.inr (.inr (.inr (.inl ⟨f, r, _, (PortEffect.accepted.inj h).symm⟩))))
  | bitmapWord a =>
    exact .inr (.inr (.inr (.inr (.inr ⟨a, rfl, (PortEffect.accepted.inj h).symm⟩))))

/-- What an accepted host event can leave: a read's answer, what a write of an aligned mapped offset
leaves, or the reset state (20_memory.md R62, 70_reset_and_hazards.md R300). -/
theorem hostEffect_cases {s t : State} {e : HostEvent} (h : hostEffect s e = .accepted t) :
    (∃ v, t = s.answered v) ∨
      (∃ a v x, a % 8 = 0 ∧ portTarget s.cfg a = some x ∧ portWrite s v x = .accepted t) ∨
      t = State.resetWith s.cfg s.pending := by
  cases e with
  | read a bytes =>
    simp only [hostEffect] at h
    split at h
    · nomatch h
    · exact .inl ⟨_, (PortEffect.accepted.inj h).symm⟩
  | write a bytes v =>
    simp only [hostEffect] at h
    split at h
    · nomatch h
    · next x hx =>
      obtain ⟨-, ha, htarget⟩ := accessTarget_eq_some hx
      exact .inr (.inl ⟨a, v, x, ha, htarget, h⟩)
  | reset => exact .inr (.inr (PortEffect.accepted.inj h).symm)

namespace State.Inv

variable {s : State}

theorem portWrite (h : s.Inv) {a : Nat} {v : PortWord} {x : PortTarget} {t : State} (ha : a % 8 = 0)
    (hx : portTarget s.cfg a = some x) (hw : portWrite s v x = .accepted t) : t.Inv := by
  rcases portWrite_cases hw with rfl | rfl | rfl | ⟨r, rfl⟩ | ⟨f, r, n, rfl⟩ | ⟨b, rfl, rfl⟩
  · exact h
  · exact h.hostWriteTspace v
  · exact h.acknowledge
  · exact h.hostWriteT r v
  · exact h.writeWide f r n
  · obtain ⟨rfl, hmap⟩ := portTarget_eq_bitmapWord hx
    exact h.writeWord ha hmap v

theorem hostEffect (h : s.Inv) {e : HostEvent} {t : State} (he : hostEffect s e = .accepted t) :
    t.Inv := by
  rcases hostEffect_cases he with ⟨v, rfl⟩ | ⟨a, v, x, ha, hx, hw⟩ | rfl
  · exact h.answered v
  · exact h.portWrite ha hx hw
  · exact inv_resetWith h.geometry _

end State.Inv

/-! ### The obligations -/

/-- Settles O48: a step is a command or an accepted host access of the state that took it, and each
keeps the invariant. -/
theorem stepKeepsTheInvariant : Obligations.StepKeepsTheInvariant := by
  intro s t hs hstep
  obtain ⟨e, rest, -, ⟨c, -, hrun⟩ | haccepted⟩ := step_cases hstep
  · exact (hs.took rest).runCommand hrun
  · exact (hs.took rest).hostEffect haccepted

/-- Settles O47: the reference geometry meets its constraints, and the rest is `inv_resetWith`. -/
theorem resetMeetsTheInvariant : Obligations.ResetMeetsTheInvariant :=
  inv_resetWith (by constructor <;> decide) []

end Sys2Proof.Machine

/-! ## Results depend on operands only (10_state.md R20, R27) -/

namespace Sys2Proof.Machine

/-- The same writes leave equal registers and memories in two states with equal operands. -/
theorem OperandsAgree.apply {s s' : State} (h : OperandsAgree s s') (x : Writes) :
    OperandsAgree (x.apply s) (x.apply s') := by
  obtain ⟨ht, hd, hq, ho, hspace, hmem, hcfg⟩ := h
  have hwide : ∀ f rd v, OperandsAgree (s.writeWide f rd v) (s'.writeWide f rd v) := fun f rd v => by
    cases f <;> constructor <;> simp only [State.writeWide, *]
  cases x with
  | nothing => constructor <;> assumption
  | wide f rd v => exact hwide f rd v
  | wideCarry f rd v c => exact { hwide f rd v with }
  | compare | found | slotAddr => constructor <;> simpa [Writes.apply]
  | tick | tickFound => constructor <;> simp [Writes.apply, *]
  | slotBit => constructor <;> simp [Writes.apply, State.slotOffset, *]

/-- A part that neither run touched. -/
theorem KeptOrSame.kept {α : Type} {x x' : α} : KeptOrSame x x' x x' := .inl ⟨rfl, rfl⟩

/-- The same writes keep each flag and `BADDR` in both states or write one value in both (10_state.md
R27). -/
theorem Writes.apply_keptOrSame {s s' : State} (hcfg : s'.cfg = s.cfg) (x : Writes) :
    KeptOrSame s.flags.f s'.flags.f (x.apply s).flags.f (x.apply s').flags.f ∧
    KeptOrSame s.flags.c s'.flags.c (x.apply s).flags.c (x.apply s').flags.c ∧
    KeptOrSame s.flags.z s'.flags.z (x.apply s).flags.z (x.apply s').flags.z ∧
    KeptOrSame s.flags.l s'.flags.l (x.apply s).flags.l (x.apply s').flags.l ∧
    KeptOrSame s.baddr s'.baddr (x.apply s).baddr (x.apply s').baddr := by
  cases x <;> simp [Writes.apply, KeptOrSame, hcfg]

/-- No writes of a command reach the control state; `PC` is left to retiring. -/
theorem Writes.apply_control (s : State) (x : Writes) :
    (x.apply s).pc = s.pc ∧ (x.apply s).cause = s.cause ∧ (x.apply s).ecmd = s.ecmd := by
  cases x <;> simp [Writes.apply]

/-- Settles O50: from equal operands a command raises one cause in both states or makes the same writes
in both (`exec_fixed`), and then each part is compared. -/
theorem resultsDependOnOperandsOnly : Obligations.ResultsDependOnOperandsOnly := by
  intro i s s' ht hd hq ho hspace hmem hcfg
  have h : OperandsAgree s s' :=
    ⟨ht.symm, hd.symm, hq.symm, ho.symm, hspace.symm, hmem.symm, hcfg.symm⟩
  rcases exec_fixed i s with ⟨e, he⟩ | ⟨x, -, hx⟩
  · have hcode : e.code ≠ 0 := by cases e <;> decide
    exact ⟨s.raise e (encode i), s'.raise e (encode i), he s (.refl s), he s' h, ht, hd, hq, ho, hmem,
      .kept, .kept, .kept, .kept, .kept, .inl ⟨rfl, rfl, rfl, hcode, rfl⟩⟩
  · obtain ⟨hf, hc, hz, hl, hb⟩ := x.apply_keptOrSame h.cfg
    obtain ⟨hpc, hcause, hecmd⟩ := x.apply_control s
    obtain ⟨hpc', hcause', hecmd'⟩ := x.apply_control s'
    have hx' := h.apply x
    exact ⟨(x.apply s).retire, (x.apply s').retire, hx s (.refl s), hx s' h, hx'.t.symm, hx'.d.symm,
      hx'.q.symm, hx'.o.symm, hx'.mem.symm, hf, hc, hz, hl, hb,
      .inr ⟨by simp [hpc], by simp [hpc'], hcause, hcause', hecmd, hecmd'⟩⟩

end Sys2Proof.Machine

/-! ## The control registers at the host port (10_state.md R28 to R35) -/

namespace Sys2Proof.Machine

/-- `FLAGS` as a number: bit 0 `F`, 1 `C`, 2 `Z`, 3 `L` (10_state.md R27). -/
theorem Flags.toBits_toNat (x : Flags) :
    x.toBits.toNat = x.f.toNat + 2 * x.c.toNat + 4 * x.z.toNat + 8 * x.l.toNat := by
  obtain ⟨f, c, z, l⟩ := x
  revert f c z l
  decide

/-- A step that reads a mapped offset answers the value read. -/
theorem step_read_answer {s : State} {a n : Nat} {rest : List HostEvent} {x : PortTarget}
    (h : s.pending = .read a 8 :: rest) (ha : a % 8 = 0) (hx : portTarget s.cfg a = some x)
    (hn : (portRead (s.took rest) x).toNat = n) :
    ∃ t v, step s = .next t ∧ t.answer = some v ∧ v.toNat = n :=
  ⟨_, _, step_read h ha hx, rfl, hn⟩

/-- Settles O55: each offset names its register, whose bits are zero-extended to the port word. -/
theorem controlRegistersAsRead : Obligations.ControlRegistersAsRead := by
  intro s a n rest h hmem
  have hwiden : ∀ {w : Nat} (x : BitVec w), w ≤ 64 → (x.setWidth 64).toNat = x.toNat :=
    fun x hw => BitVec.toNat_setWidth_of_le hw
  simp only [List.mem_cons, Prod.mk.injEq, List.not_mem_nil, or_false] at hmem
  rcases hmem with ⟨rfl, rfl⟩ | ⟨rfl, rfl⟩ | ⟨rfl, rfl⟩ | ⟨rfl, rfl⟩ | ⟨rfl, rfl⟩ | ⟨rfl, rfl⟩ |
    ⟨rfl, rfl⟩ | ⟨rfl, rfl⟩
  · exact step_read_answer (x := .cmd) h rfl rfl rfl
  · exact step_read_answer (x := .flags) h rfl rfl
      ((hwiden _ (by decide)).trans (Flags.toBits_toNat s.flags))
  · exact step_read_answer (x := .cause) h rfl rfl (hwiden _ (by decide))
  · exact step_read_answer (x := .ecmd) h rfl rfl (hwiden _ (by decide))
  · exact step_read_answer (x := .pc) h rfl rfl rfl
  · exact step_read_answer (x := .tspace) h rfl rfl (hwiden _ (by decide))
  · exact step_read_answer (x := .baddr) h rfl rfl (hwiden _ (by decide))
  · exact step_read_answer (x := .trapack) h rfl rfl rfl

/-- A host write of `TSPACE`, as a number (10_state.md R32). -/
theorem hostWriteTspace_toNat (s : State) (v : PortWord) : (s.hostWriteTspace v).tspace.toNat =
    if v.toNat % 2 ^ 16 = 0 then s.tspace.toNat else v.toNat % 2 ^ 16 := by
  have hzero : v.setWidth 16 = 0#16 ↔ v.toNat % 2 ^ 16 = 0 := by
    rw [← BitVec.toNat_inj, BitVec.toNat_setWidth, BitVec.toNat_ofNat, Nat.zero_mod]
  rw [hostWriteTspace_tspace]
  by_cases h : v.setWidth 16 = 0#16
  · rw [if_pos h, if_pos (hzero.1 h)]
  · rw [if_neg h, if_neg (mt hzero.2 h), BitVec.toNat_setWidth]

/-- A host write of `TSPACE` changes no other field. -/
theorem hostWriteTspace_frame (s : State) (v : PortWord) :
    { s.hostWriteTspace v with tspace := s.tspace } = s := by
  unfold State.hostWriteTspace
  split <;> rfl

/-- Settles O58: the step is the host write of `TSPACE` in the state that took the access. -/
theorem zeroSpacingIsIgnored : Obligations.ZeroSpacingIsIgnored := by
  intro s v rest h
  exact ⟨(s.took rest).hostWriteTspace v, step_write (x := .tspace) h rfl rfl rfl,
    hostWriteTspace_toNat (s.took rest) v, hostWriteTspace_frame (s.took rest) v⟩

end Sys2Proof.Machine

/-! ## The host port: its map, its accesses and what they reach (20_memory.md R61 to R69) -/

namespace Sys2Proof

/-- The offset of limb 0 of register 0 of a wide file (20_memory.md R63). -/
def WideFile.portBase : WideFile → Nat
  | .d => 0x200
  | .q => 0x400
  | .o => 0x800

theorem WideFile.bits_eq_limbs (f : WideFile) : f.bits = 64 * f.limbs := by cases f <;> rfl

end Sys2Proof

namespace Sys2Proof.Machine

/-! ### The address map (R63) -/

theorem portTarget_tick (c : Config) (r : Reg) :
    portTarget c (0x100 + 8 * r.val) = some (.tick r) := by
  have hreg : (0x100 + 8 * r.val - 0x100) / 8 = r.val := by omega
  rw [portTarget, if_neg (by omega), if_pos (by omega), hreg, Fin.ofNat_val_eq_self]

/-- Limbs lie in register order, then in limb order (20_memory.md R63, R68). -/
theorem portTarget_limb (c : Config) {f : WideFile} {r : Reg} {j a : Nat} (hj : j < f.limbs)
    (ha : a = f.portBase + 8 * (f.limbs * r.val + j)) : portTarget c a = some (.limb f r j) := by
  cases f <;> simp only [WideFile.limbs, WideFile.portBase] at hj ha
  case d =>
    have hreg : (a - 0x200) / 16 = r.val := by omega
    have hlimb : (a - 0x200) % 16 / 8 = j := by omega
    rw [portTarget, if_neg (by omega), if_neg (by omega), if_pos (by omega), hreg, hlimb,
      Fin.ofNat_val_eq_self]
  case q =>
    have hreg : (a - 0x400) / 32 = r.val := by omega
    have hlimb : (a - 0x400) % 32 / 8 = j := by omega
    rw [portTarget, if_neg (by omega), if_neg (by omega), if_neg (by omega), if_pos (by omega), hreg,
      hlimb, Fin.ofNat_val_eq_self]
  case o =>
    have hreg : (a - 0x800) / 64 = r.val := by omega
    have hlimb : (a - 0x800) % 64 / 8 = j := by omega
    rw [portTarget, if_neg (by omega), if_neg (by omega), if_neg (by omega), if_neg (by omega),
      if_pos (by omega), hreg, hlimb, Fin.ofNat_val_eq_self]

/-- The ranges of the address map: the control registers, the four register files, the bitmap words. -/
theorem portTarget_range {c : Config} {a : Nat} (h : portTarget c a ≠ none) :
    a < 0x40 ∨ (0x100 ≤ a ∧ a < 0x140) ∨ (0x200 ≤ a ∧ a < 0x280) ∨ (0x400 ≤ a ∧ a < 0x500) ∨
      (0x800 ≤ a ∧ a < 0xA00) ∨ bitmapMapped c a = true := by
  unfold portTarget at h
  split_ifs at h with hcontrol htick hd hq ho hbitmap
  · exact .inl hcontrol
  · exact .inr (.inl htick)
  · exact .inr (.inr (.inl hd))
  · exact .inr (.inr (.inr (.inl hq)))
  · exact .inr (.inr (.inr (.inr (.inl ho))))
  · exact .inr (.inr (.inr (.inr (.inr hbitmap.2))))
  · exact absurd rfl h

/-- Settles O53: the control offsets by evaluation, each other entry by the lemma of its range. -/
theorem portMapIsTheTable : Obligations.PortMapIsTheTable := by
  intro c hg
  refine ⟨rfl, portTarget_tick c, fun r j hj => portTarget_limb c (f := .d) hj ?_,
    fun r j hj => portTarget_limb c (f := .q) hj ?_, fun r j hj => portTarget_limb c (f := .o) hj ?_,
    fun w hw => portTarget_bitmapWord hg (bitmapMapped_iff.2 (by omega)), ?_, ?_⟩
  · simp only [WideFile.portBase, WideFile.limbs]; omega
  · simp only [WideFile.portBase, WideFile.limbs]; omega
  · simp only [WideFile.portBase, WideFile.limbs]; omega
  · intro b w hb hw base hbase
    have hword : b * c.extBlockWords + w < c.extBlocks * c.extBlockWords := by nlinarith
    simp only [List.mem_cons, List.not_mem_nil, or_false] at hbase
    exact portTarget_bitmapWord hg (bitmapMapped_iff.2 (by omega))
  · intro a ha
    simpa only [bitmapMapped_iff] using portTarget_range ha

/-! ### What a read moves (R65) -/

/-- A read sees nothing of the host's list and the port's last answer. -/
theorem portRead_took (s : State) (rest : List HostEvent) (x : PortTarget) :
    portRead (s.took rest) x = portRead s x := by
  cases x <;> rfl

/-- A step that reads a mapped offset moves the host's list and the answer only. -/
theorem step_read_eq {s : State} {a : Nat} {rest : List HostEvent} {x : PortTarget}
    (h : s.pending = .read a 8 :: rest) (ha : a % 8 = 0) (hx : portTarget s.cfg a = some x) :
    step s = .next { s with pending := rest, answer := some (portRead s x) } := by
  rw [step_read h ha hx, portRead_took]
  rfl

/-! ### Tick registers at the port (R67) -/

/-- The host's write of a tick register is the register write of the port word's value, of which the
low 32 bits are kept. -/
theorem hostWriteT_eq_writeT (s : State) (r : TReg) (v : PortWord) :
    s.hostWriteT r v = s.writeT r v.toNat := by
  rw [State.hostWriteT, State.writeT, BitVec.ofInt_natCast, BitVec.ofNat_toNat]

theorem readT_hostWriteT_same (s : State) (r : TReg) (v : PortWord) :
    (s.hostWriteT r v).readT r = (BitVec.ofNat 32 (v.toNat % 2 ^ 32)).toInt := by
  rw [hostWriteT_eq_writeT, readT_writeT_same, BitVec.ofInt_natCast]
  exact congrArg _ (BitVec.eq_of_toNat_eq (by simp))

/-- The pattern of a tick register, from its signed value. -/
theorem toNat_get_eq_readT (s : State) (r : TReg) :
    (s.t.get r).toNat = (s.readT r % 2 ^ 32).toNat := by
  conv_lhs => rw [← BitVec.ofInt_toInt (x := s.t.get r), BitVec.toNat_ofInt]
  rfl

/-- Settles O56: the write is a register write, and the read zero-extends the register's pattern. -/
theorem tickRegisterAtThePort : Obligations.TickRegisterAtThePort := by
  intro s r v rest
  have haligned : (0x100 + 8 * r.val) % 8 = 0 := by omega
  have htarget := portTarget_tick s.cfg r
  refine ⟨fun h => ?_, fun h => ?_⟩
  · refine ⟨(s.took rest).hostWriteT r v, step_write h haligned htarget rfl,
      readT_hostWriteT_same _ r v, fun r' hr => ?_, rfl⟩
    rw [hostWriteT_eq_writeT, readT_writeT_other _ _ hr, took_readT]
  · refine step_read_answer h haligned htarget ?_
    exact (BitVec.toNat_setWidth_of_le (by decide)).trans (toNat_get_eq_readT s r)

/-! ### Limbs at the port (R68) -/

/-- Cutting a value to `n` limbs keeps each of them. -/
theorem limb_mod_limbs (v : Nat) {j n : Nat} (hj : j < n) :
    v % 2 ^ (64 * n) / 2 ^ (64 * j) % 2 ^ 64 = v / 2 ^ (64 * j) % 2 ^ 64 := by
  have hsplit : 2 ^ (64 * n) = 2 ^ (64 * j) * 2 ^ (64 * (n - j)) := by
    rw [← pow_add]; congr 1; omega
  rw [hsplit, Nat.mod_mul_right_div_self, Nat.mod_mod_of_dvd _ (Nat.pow_dvd_pow 2 (by omega))]

/-- The limbs of a register after a host write of its limb `j`: the new one there, the old ones
elsewhere. -/
theorem limb_hostWriteLimb (s : State) (f : WideFile) (r : Reg) (j : Nat) (v : PortWord) {j' : Nat}
    (hj' : j' < f.limbs) : (s.hostWriteLimb f r j v).readWide f r / 2 ^ (64 * j') % 2 ^ 64 =
      if j' = j then v.toNat else s.readWide f r / 2 ^ (64 * j') % 2 ^ 64 := by
  rw [State.hostWriteLimb, readWide_writeWide_same, f.bits_eq_limbs, limb_mod_limbs _ hj',
    limb_withLimb]

/-- A host write of a limb changes no field but the wide files. -/
theorem hostWriteLimb_frame (s : State) (f : WideFile) (r : Reg) (j : Nat) (v : PortWord) :
    { s.hostWriteLimb f r j v with d := s.d, q := s.q, o := s.o } = s := by
  cases f <;> rfl

theorem limbOf_toNat (v j : Nat) : (limbOf v j).toNat = v / 2 ^ (64 * j) % 2 ^ 64 := by
  rw [limbOf, BitVec.toNat_ofNat]

/-- Settles O57: the write is `hostWriteLimb` in the state that took the access, the read `limbOf`. -/
theorem limbAtThePort : Obligations.LimbAtThePort := by
  intro s f base r j v rest hbase hj
  obtain rfl : base = f.portBase := by
    simp only [List.mem_cons, Prod.mk.injEq, List.not_mem_nil, or_false] at hbase
    rcases hbase with ⟨rfl, rfl⟩ | ⟨rfl, rfl⟩ | ⟨rfl, rfl⟩ <;> rfl
  have haligned : (f.portBase + 8 * (f.limbs * r.val + j)) % 8 = 0 := by
    cases f <;> simp only [WideFile.portBase] <;> omega
  have htarget := portTarget_limb s.cfg hj rfl (r := r)
  refine ⟨fun h => ?_, fun h => ?_⟩
  · refine ⟨(s.took rest).hostWriteLimb f r j v, step_write h haligned htarget rfl, fun j' hj' => ?_,
      fun g r' hne => ?_, hostWriteLimb_frame (s.took rest) f r j v⟩
    · rw [limb_hostWriteLimb _ _ _ _ _ hj', took_readWide]
    · rw [State.hostWriteLimb, readWide_writeWide_other _ _ hne, took_readWide]
  · refine step_read_answer h haligned htarget ?_
    exact (limbOf_toNat _ j).trans (by rw [took_readWide])

/-! ### Bitmap words at the port (R69) -/

theorem portRead_bitmapWord (s : State) (a : Nat) :
    portRead s (.bitmapWord a) = s.mem.readWord a := by
  rw [portRead]

/-- Settles O60: a mapped bitmap offset names its own word, and the memory's laws say the rest. -/
theorem bitmapWordAtThePort : Obligations.BitmapWordAtThePort := by
  intro s a v rest hg hwf haligned hmapped
  have htarget := portTarget_bitmapWord hg hmapped
  refine ⟨fun h => ?_, fun h => ?_⟩
  · exact ⟨(s.took rest).withMem (s.mem.writeWord a v), step_write h haligned htarget rfl,
      readWord_writeWord_same hwf a v, fun b hb => byteAt_writeWord_other hwf a v b hb, rfl⟩
  · rw [step_read_eq h haligned htarget, portRead_bitmapWord]

/-! ### A presented command (R61, R64) -/

/-- A step on a presented word runs it, while the block is not halted. -/
theorem step_presentCommand {s : State} {c : CommandWord} {rest : List HostEvent} (hs : s.cause = 0)
    (h : s.pending = presentCommand c :: rest) : step s = runCommand c (s.took rest) := by
  unfold step
  rw [h]
  dsimp only
  rw [hostEffect_presentCommand (s := s.took rest) hs]

theorem runCommand_of_decode {c : CommandWord} {i : Instr} (hi : decode c = .ok i) (s : State) :
    runCommand c s = exec i s := by
  rw [runCommand, hi]

/-- Settles O6: the port accepts the word, and the word is its command. -/
theorem stepRunsDecodedCommand : Obligations.StepRunsDecodedCommand :=
  fun s _ rest _ hs h hi =>
    ⟨(step_presentCommand hs h).trans (runCommand_of_decode hi (s.took rest)), rfl⟩

/-! ### Rejected accesses (R62, R64) -/

/-- The three grounds on which an access names nothing (20_memory.md R62). -/
theorem accessTarget_eq_none {c : Config} {a n : Nat}
    (h : n ≠ 8 ∨ a % 8 ≠ 0 ∨ portTarget c a = none) : accessTarget c a n = none := by
  unfold accessTarget
  split
  · next hok => exact (h.resolve_left (not_not_intro hok.1)).resolve_left (not_not_intro hok.2)
  · rfl

theorem step_rejected {s : State} {e : HostEvent} {rest : List HostEvent}
    (h : s.pending = e :: rest) (he : hostEffect (s.took rest) e = .rejected) :
    step s = .refused .portRejected := by
  unfold step
  rw [h]
  dsimp only
  rw [he]

/-- The port rejects a `CMD` write with a nonzero upper half, halted or not (20_memory.md R64). -/
theorem portWrite_cmd_rejected (s : State) {v : PortWord} (hv : 2 ^ 32 ≤ v.toNat) :
    portWrite s v .cmd = .rejected := by
  have hupper : v.extractLsb' 32 32 ≠ 0#32 := fun h0 => by
    have hnat := congrArg BitVec.toNat h0
    rw [BitVec.extractLsb'_toNat, Nat.shiftRight_eq_div_pow, BitVec.toNat_ofNat] at hnat
    have hlt := v.isLt
    omega
  rw [portWrite, if_pos hupper]

/-- Settles O8: an access that names nothing is rejected as a read and as a write; a `CMD` write names
`CMD` and is rejected for its upper half. -/
theorem rejectedAccessHasNoStep : Obligations.RejectedAccessHasNoStep := by
  refine ⟨fun s a n rest hground hpending => ?_, fun s v rest hv h => ?_⟩
  · have hnone : accessTarget (s.took rest).cfg a n = none := accessTarget_eq_none hground
    rcases hpending with h | ⟨v, h⟩
    · exact step_rejected h (by rw [hostEffect, hnone])
    · exact step_rejected h (by rw [hostEffect, hnone])
  · exact step_rejected h (portWrite_cmd_rejected _ hv)

/-! ### Accesses that change nothing of the block (R63, R65) -/

/-- Settles O54: `step_read_eq` for the read, and again for the read repeated. -/
theorem hostReadHasNoSideEffect : Obligations.HostReadHasNoSideEffect := by
  intro s a rest h ha hmapped
  obtain ⟨x, hx⟩ := Option.ne_none_iff_exists'.1 hmapped
  refine ⟨portRead s x, step_read_eq h ha hx, fun rest' => ?_⟩
  have hrepeat := step_read_eq rfl ha hx
    (s := { s with pending := .read a 8 :: rest', answer := some (portRead s x) })
  rw [hrepeat]
  cases x <;> rfl

/-- Settles O59: each of the five offsets names its register, whose write the port ignores. -/
theorem readOnlyWritesAreIgnored : Obligations.ReadOnlyWritesAreIgnored := by
  intro s a v rest hmem h
  refine ⟨s.took rest, ?_, rfl⟩
  simp only [List.mem_cons, List.not_mem_nil, or_false] at hmem
  rcases hmem with rfl | rfl | rfl | rfl | rfl
  · exact step_write (x := .flags) h rfl rfl rfl
  · exact step_write (x := .cause) h rfl rfl rfl
  · exact step_write (x := .ecmd) h rfl rfl rfl
  · exact step_write (x := .pc) h rfl rfl rfl
  · exact step_write (x := .baddr) h rfl rfl rfl

end Sys2Proof.Machine

/-! ## Encoding and decoding (30_encoding.md R91 to R100) -/

namespace Sys2Proof

/-! ### The opcode table decides decoding (R94) -/

/-- Every row fixes its `op` and `w`, bits 31:24 (30_encoding.md R91). -/
theorem opcodeTable_mask_opcode :
    ∀ r ∈ opcodeTable, r.mask &&& 0xFF000000#32 = 0xFF000000#32 := by decide

/-- No two rows have the same `op` and `w` (30_encoding.md R96). -/
theorem opcodeTable_opcode_nodup :
    (opcodeTable.map fun r => r.value &&& 0xFF000000#32).Nodup := by decide

/-- A matching word has the row's `op` and `w`. -/
theorem opcode_eq_of_match {r : OpcodeRow} (hr : r ∈ opcodeTable) {c : CommandWord}
    (h : c &&& r.mask = r.value) : r.value &&& 0xFF000000#32 = c &&& 0xFF000000#32 := by
  rw [← h, BitVec.and_assoc, opcodeTable_mask_opcode r hr]

/-- At most one row matches a word: its `op` and `w` already single the row out. -/
theorem eq_of_match {c : CommandWord} {r r' : OpcodeRow} (hr : r ∈ opcodeTable)
    (hr' : r' ∈ opcodeTable) (h : c &&& r.mask = r.value) (h' : c &&& r'.mask = r'.value) : r = r' :=
  List.inj_on_of_nodup_map opcodeTable_opcode_nodup hr hr'
    ((opcode_eq_of_match hr h).trans (opcode_eq_of_match hr' h').symm)

theorem matchesWord_iff {r : OpcodeRow} {c : CommandWord} :
    r.matchesWord c = true ↔ c &&& r.mask = r.value := beq_iff_eq

/-- A word decodes to what a row it matches builds from it, and to nothing else. -/
theorem decode_eq_ok_iff {c : CommandWord} {i : Instr} :
    decode c = .ok i ↔ ∃ r ∈ opcodeTable, c &&& r.mask = r.value ∧ r.build c = i := by
  unfold decode
  split
  · next r hfind =>
    have hr : r ∈ opcodeTable := List.mem_of_find?_eq_some hfind
    have hmatch : c &&& r.mask = r.value :=
      matchesWord_iff.1 (List.find?_some (p := fun r : OpcodeRow => r.matchesWord c) hfind)
    refine ⟨fun h => ⟨r, hr, hmatch, Except.ok.inj h⟩, ?_⟩
    rintro ⟨r', hr', hmatch', rfl⟩
    rw [eq_of_match hr hr' hmatch hmatch']
  · next hfind =>
    refine ⟨nofun, ?_⟩
    rintro ⟨r, hr, hmatch, -⟩
    exact absurd (matchesWord_iff.2 hmatch) (List.find?_eq_none.1 hfind r hr)

/-- A word that matches no row is illegal. -/
theorem decode_eq_error {c : CommandWord} (h : ∀ r ∈ opcodeTable, c &&& r.mask ≠ r.value) :
    decode c = .error (illegalReason c) := by
  have hnone : opcodeTable.find? (fun r => r.matchesWord c) = none :=
    List.find?_eq_none.2 fun r hr hmatch => h r hr (matchesWord_iff.1 hmatch)
  rw [decode, hnone]

/-! ### The word of a command decodes to it (R97) -/

/-- The family `WordFitsRow`, for every command. -/
theorem wordFitsRow : ∀ i : Instr, Laws.WordFitsRow.Statement i
  | .wli128 _ _ => Laws.WordFitsRow.wli128 _ _
  | .wli256 _ _ => Laws.WordFitsRow.wli256 _ _
  | .wli512 _ _ => Laws.WordFitsRow.wli512 _ _
  | .add128 _ _ _ => Laws.WordFitsRow.add128 _ _ _
  | .add256 _ _ _ => Laws.WordFitsRow.add256 _ _ _
  | .add512 _ _ _ => Laws.WordFitsRow.add512 _ _ _
  | .sub128 _ _ _ => Laws.WordFitsRow.sub128 _ _ _
  | .sub256 _ _ _ => Laws.WordFitsRow.sub256 _ _ _
  | .sub512 _ _ _ => Laws.WordFitsRow.sub512 _ _ _
  | .mulw128 _ _ _ => Laws.WordFitsRow.mulw128 _ _ _
  | .mulw256 _ _ _ => Laws.WordFitsRow.mulw256 _ _ _
  | .div128 _ _ _ => Laws.WordFitsRow.div128 _ _ _
  | .div256 _ _ _ => Laws.WordFitsRow.div256 _ _ _
  | .div512 _ _ _ => Laws.WordFitsRow.div512 _ _ _
  | .shl128 _ _ _ => Laws.WordFitsRow.shl128 _ _ _
  | .shl256 _ _ _ => Laws.WordFitsRow.shl256 _ _ _
  | .shl512 _ _ _ => Laws.WordFitsRow.shl512 _ _ _
  | .shr128 _ _ _ => Laws.WordFitsRow.shr128 _ _ _
  | .shr256 _ _ _ => Laws.WordFitsRow.shr256 _ _ _
  | .shr512 _ _ _ => Laws.WordFitsRow.shr512 _ _ _
  | .cmp128 _ _ => Laws.WordFitsRow.cmp128 _ _
  | .cmp256 _ _ => Laws.WordFitsRow.cmp256 _ _
  | .cmp512 _ _ => Laws.WordFitsRow.cmp512 _ _
  | .upcDq _ _ => Laws.WordFitsRow.upcDq _ _
  | .upcQo _ _ => Laws.WordFitsRow.upcQo _ _
  | .upcDo _ _ => Laws.WordFitsRow.upcDo _ _
  | .dncQd _ _ => Laws.WordFitsRow.dncQd _ _
  | .dncOq _ _ => Laws.WordFitsRow.dncOq _ _
  | .dncOd _ _ => Laws.WordFitsRow.dncOd _ _
  | .snrQd _ _ => Laws.WordFitsRow.snrQd _ _
  | .snrOq _ _ => Laws.WordFitsRow.snrOq _ _
  | .snrOd _ _ => Laws.WordFitsRow.snrOd _ _
  | .mdf128 _ _ _ _ => Laws.WordFitsRow.mdf128 _ _ _ _
  | .mdf256 _ _ _ _ => Laws.WordFitsRow.mdf256 _ _ _ _
  | .mdc128 _ _ _ _ => Laws.WordFitsRow.mdc128 _ _ _ _
  | .mdc256 _ _ _ _ => Laws.WordFitsRow.mdc256 _ _ _ _
  | .divn128 _ _ _ => Laws.WordFitsRow.divn128 _ _ _
  | .divn256 _ _ _ => Laws.WordFitsRow.divn256 _ _ _
  | .t2sp _ _ => Laws.WordFitsRow.t2sp _ _
  | .sp2t _ _ => Laws.WordFitsRow.sp2t _ _
  | .tli _ _ => Laws.WordFitsRow.tli _ _
  | .tas _ _ => Laws.WordFitsRow.tas _ _
  | .bmset _ => Laws.WordFitsRow.bmset _
  | .bmclr _ => Laws.WordFitsRow.bmclr _
  | .bmtst _ => Laws.WordFitsRow.bmtst _
  | .bmnext _ _ _ _ => Laws.WordFitsRow.bmnext _ _ _ _
  | .bmaddr _ => Laws.WordFitsRow.bmaddr _
  | .nop => Laws.WordFitsRow.nop

/-- Settles O1: the command's word matches a row that builds the command back (`wordFitsRow`), and that
row decides decoding. -/
theorem decodeEncodeRoundTrip : Obligations.DecodeEncodeRoundTrip := by
  intro i hi
  obtain ⟨r, hr, hmatch, hbuild⟩ := wordFitsRow i hi
  exact decode_eq_ok_iff.2 ⟨r, hr, matchesWord_iff.1 hmatch, hbuild⟩

theorem decode_of_encode_eq {c : CommandWord} {i : Instr} (hc : encode i = c)
    (hi : i.wellFormed = true) : decode c = .ok i :=
  hc ▸ decodeEncodeRoundTrip i hi

/-- Settles O4: each word is the encoding of its command, so the round trip decodes it. -/
theorem sampleWordsDecode : Obligations.SampleWordsDecode :=
  ⟨decode_of_encode_eq rfl rfl, decode_of_encode_eq rfl rfl, decode_of_encode_eq rfl rfl,
    decode_of_encode_eq rfl rfl, decode_of_encode_eq rfl rfl, decode_of_encode_eq rfl rfl,
    decode_of_encode_eq rfl rfl, decode_of_encode_eq rfl rfl⟩

/-! ### A field read from a word and written back (R91, R93) -/

/-- The bits `lo + n - 1` to `lo`. -/
def fieldMask (lo n : Nat) : CommandWord := (BitVec.allOnes n).setWidth 32 <<< lo

/-- A field moved back to its place is the word under the field's mask. -/
theorem extract_shiftLeft (c : CommandWord) (lo n : Nat) :
    (c.extractLsb' lo n).setWidth 32 <<< lo = c &&& fieldMask lo n := by
  apply BitVec.eq_of_getLsbD_eq
  intro j hj
  by_cases hlo : j < lo
  · simp [fieldMask, hlo]
  · simp [fieldMask, hlo, hj, show lo + (j - lo) = j by omega, Bool.and_comm]

theorem extract_low (c : CommandWord) (n : Nat) :
    (c.extractLsb' 0 n).setWidth 32 = c &&& fieldMask 0 n := by
  rw [← extract_shiftLeft, BitVec.shiftLeft_zero]

theorem regField_regAt (c : CommandWord) (lo : Nat) :
    regField (regAt c lo) lo = c &&& fieldMask lo 3 := by
  have hback : BitVec.ofNat 3 (regAt c lo).val = c.extractLsb' lo 3 := by
    apply BitVec.eq_of_toNat_eq
    simp [regAt]
  rw [regField, hback, extract_shiftLeft]

theorem imm16Field_imm16At (c : CommandWord) :
    imm16Field (imm16At c) = c &&& fieldMask 0 16 := by
  rw [imm16Field, imm16At, BitVec.ofNat_toNat, BitVec.setWidth_eq, extract_low]

theorem shamtField_shamtAt (c : CommandWord) :
    shamtField (shamtAt c) = c &&& fieldMask 0 10 := by
  rw [shamtField, shamtAt, BitVec.ofNat_toNat, BitVec.setWidth_eq, extract_low]

theorem imm20Field_imm20At (c : CommandWord) :
    imm20Field (imm20At c) = c &&& fieldMask 0 20 := by
  rw [imm20Field, imm20At, BitVec.ofInt_toInt, extract_low]

theorem directionField_directionAt (c : CommandWord) :
    directionField (directionAt c) = c &&& fieldMask 0 1 := by
  rw [directionAt, show fieldMask 0 1 = BitVec.twoPow 32 0 from rfl, BitVec.and_twoPow]
  split <;> rfl

theorem inclusiveField_inclusiveAt (c : CommandWord) :
    inclusiveField (inclusiveAt c) = c &&& fieldMask 1 1 := by
  rw [show fieldMask 1 1 = BitVec.twoPow 32 1 from rfl, BitVec.and_twoPow]
  rfl

theorem imm16Fits_imm16At (c : CommandWord) : imm16Fits (imm16At c) = true :=
  decide_eq_true (BitVec.isLt _)

theorem shamtFits_shamtAt (c : CommandWord) : shamtFits (shamtAt c) = true :=
  decide_eq_true (BitVec.isLt _)

theorem imm20Fits_imm20At (c : CommandWord) : imm20Fits (imm20At c) = true :=
  decide_eq_true ⟨BitVec.le_toInt _, BitVec.toInt_lt⟩

/-! ### A matching word is put together again from the row's bits and its fields (R97, R100) -/

/-- `x` is the part of the word `c` that lies under the mask `m`. Its lemmas add one field of the word
at a time, in the order of `encode`, until the mask is whole. -/
def IsPart (c m x : CommandWord) : Prop := x = c &&& m

section Parts

variable {c m x v : CommandWord}

theorem IsPart.of_match (h : c &&& m = v) : IsPart c m v := h.symm

theorem IsPart.or {m' y : CommandWord} (h : IsPart c m x) (h' : y = c &&& m') :
    IsPart c (m ||| m') (x ||| y) := by
  rw [IsPart, h, h', BitVec.and_or_distrib_left]

theorem IsPart.reg (h : IsPart c m x) (lo : Nat) :
    IsPart c (m ||| fieldMask lo 3) (x ||| regField (regAt c lo) lo) :=
  h.or (regField_regAt c lo)

theorem IsPart.eq_word (h : IsPart c m x) (hm : m = BitVec.allOnes 32) : x = c := by
  rw [h, hm, BitVec.and_allOnes]

/-! One lemma per layout of 30_encoding.md R96. The last step checks that the row's mask and its fields
cover the word, so no bit is ignored (R100). -/

theorem word_rd_imm16 (h : c &&& 0xFF8F0000#32 = v) :
    v ||| regField (regAt c 20) 20 ||| imm16Field (imm16At c) = c :=
  (((IsPart.of_match h).reg 20).or (imm16Field_imm16At c)).eq_word (by decide)

theorem word_rd_ra_rb (h : c &&& 0xFF888FFF#32 = v) :
    v ||| regField (regAt c 20) 20 ||| regField (regAt c 16) 16 ||| regField (regAt c 12) 12 = c :=
  ((((IsPart.of_match h).reg 20).reg 16).reg 12).eq_word (by decide)

theorem word_rd_ra_shamt (h : c &&& 0xFF88FC00#32 = v) :
    v ||| regField (regAt c 20) 20 ||| regField (regAt c 16) 16 ||| shamtField (shamtAt c) = c :=
  ((((IsPart.of_match h).reg 20).reg 16).or (shamtField_shamtAt c)).eq_word (by decide)

theorem word_ra_rb (h : c &&& 0xFFF88FFF#32 = v) :
    v ||| regField (regAt c 16) 16 ||| regField (regAt c 12) 12 = c :=
  (((IsPart.of_match h).reg 16).reg 12).eq_word (by decide)

theorem word_rd_ra (h : c &&& 0xFF88FFFF#32 = v) :
    v ||| regField (regAt c 20) 20 ||| regField (regAt c 16) 16 = c :=
  (((IsPart.of_match h).reg 20).reg 16).eq_word (by decide)

theorem word_rd_rv_rn_rm (h : c &&& 0xFF8888FF#32 = v) :
    v ||| regField (regAt c 20) 20 ||| regField (regAt c 16) 16 ||| regField (regAt c 12) 12 |||
      regField (regAt c 8) 8 = c :=
  (((((IsPart.of_match h).reg 20).reg 16).reg 12).reg 8).eq_word (by decide)

theorem word_rd_imm20 (h : c &&& 0xFF800000#32 = v) :
    v ||| regField (regAt c 20) 20 ||| imm20Field (imm20At c) = c :=
  (((IsPart.of_match h).reg 20).or (imm20Field_imm20At c)).eq_word (by decide)

theorem word_ra (h : c &&& 0xFFF8FFFF#32 = v) : v ||| regField (regAt c 16) 16 = c :=
  ((IsPart.of_match h).reg 16).eq_word (by decide)

theorem word_rd_ra_fn (h : c &&& 0xFF88FFFC#32 = v) :
    v ||| regField (regAt c 20) 20 ||| regField (regAt c 16) 16 ||| directionField (directionAt c) |||
      inclusiveField (inclusiveAt c) = c :=
  (((((IsPart.of_match h).reg 20).reg 16).or (directionField_directionAt c)).or
    (inclusiveField_inclusiveAt c)).eq_word (by decide)

theorem word_fixed (h : c &&& 0xFFFFFFFF#32 = v) : v = c :=
  (IsPart.of_match h).eq_word (by decide)

end Parts

/-- The row reads every bit of a word that matches it: the command it builds is well formed and has that
word as its encoding. -/
def OpcodeRow.ReadsEveryBit (r : OpcodeRow) : Prop :=
  ∀ c : CommandWord, c &&& r.mask = r.value → encode (r.build c) = c ∧ (r.build c).wellFormed = true

/-! Row by row, in the order of the table: runs of rows of one layout share its lemma. -/

theorem wideRows_readsEveryBit : ∀ r ∈ wideRows, r.ReadsEveryBit := by
  simp only [wideRows, List.forall_mem_cons]
  and_intros
  iterate 3 exact fun c h => ⟨word_rd_imm16 h, imm16Fits_imm16At c⟩
  iterate 11 exact fun _ h => ⟨word_rd_ra_rb h, rfl⟩
  iterate 6 exact fun c h => ⟨word_rd_ra_shamt h, shamtFits_shamtAt c⟩
  iterate 3 exact fun _ h => ⟨word_ra_rb h, rfl⟩
  iterate 9 exact fun _ h => ⟨word_rd_ra h, rfl⟩
  exact List.forall_mem_nil _

theorem mulDivRows_readsEveryBit : ∀ r ∈ mulDivRows, r.ReadsEveryBit := by
  simp only [mulDivRows, List.forall_mem_cons]
  and_intros
  iterate 4 exact fun _ h => ⟨word_rd_rv_rn_rm h, rfl⟩
  iterate 2 exact fun _ h => ⟨word_rd_ra_rb h, rfl⟩
  exact List.forall_mem_nil _

theorem converterRows_readsEveryBit : ∀ r ∈ converterRows, r.ReadsEveryBit := by
  simp only [converterRows, List.forall_mem_cons]
  and_intros
  iterate 2 exact fun _ h => ⟨word_rd_ra h, rfl⟩
  exact List.forall_mem_nil _

theorem bitmapRows_readsEveryBit : ∀ r ∈ bitmapRows, r.ReadsEveryBit := by
  simp only [bitmapRows, List.forall_mem_cons]
  and_intros
  exact fun c h => ⟨word_rd_imm20 h, imm20Fits_imm20At c⟩
  exact fun _ h => ⟨word_rd_ra h, rfl⟩
  iterate 3 exact fun _ h => ⟨word_ra h, rfl⟩
  exact fun _ h => ⟨word_rd_ra_fn h, rfl⟩
  exact fun _ h => ⟨word_ra h, rfl⟩
  exact List.forall_mem_nil _

theorem systemRows_readsEveryBit : ∀ r ∈ systemRows, r.ReadsEveryBit := by
  simp only [systemRows, List.forall_mem_cons]
  and_intros
  exact fun _ h => ⟨word_fixed h, rfl⟩
  exact List.forall_mem_nil _

theorem opcodeTable_readsEveryBit : ∀ r ∈ opcodeTable, r.ReadsEveryBit := by
  simp only [opcodeTable, List.forall_mem_append]
  exact ⟨⟨⟨⟨wideRows_readsEveryBit, mulDivRows_readsEveryBit⟩, converterRows_readsEveryBit⟩,
    bitmapRows_readsEveryBit⟩, systemRows_readsEveryBit⟩

/-- Settles O2: the word matches the row that decodes it, and that row reads every bit. -/
theorem legalWordIsItsCommandsWord : Obligations.LegalWordIsItsCommandsWord := by
  intro c i h
  obtain ⟨r, hr, hmatch, rfl⟩ := decode_eq_ok_iff.1 h
  exact opcodeTable_readsEveryBit r hr c hmatch

end Sys2Proof

namespace Sys2Proof.Machine

/-- Settles O3: `eq_of_match`, `decode_eq_ok_iff` and `decode_eq_error`, one for each part. -/
theorem tableDecidesDecoding : Obligations.TableDecidesDecoding := by
  intro c
  refine ⟨fun r hr r' hr' h h' => ?_, fun r hr h => decode_eq_ok_iff.2 ⟨r, hr, h, rfl⟩,
    fun hnone s => ⟨s.raise .illegalCommand c, ?_, rfl⟩⟩
  · rw [eq_of_match hr hr' h h']
  · rw [runCommand, decode_eq_error hnone, trap]

end Sys2Proof.Machine

/-! ## Wide arithmetic (40_wide_arith.md R120 to R134) -/

namespace Sys2Proof.Machine

/-! ### Immediates (30_encoding.md R93) -/

/-- A low field that reads back is the number itself in the word. -/
theorem lowField_eq_ofNat {n imm : Nat} (h : (BitVec.ofNat n imm).toNat = imm) :
    (BitVec.ofNat n imm).setWidth 32 = BitVec.ofNat 32 imm := by
  rw [← BitVec.ofNat_toNat, h]

theorem imm16Field_eq_ofNat {imm : Nat} (h : imm16Fits imm = true) :
    imm16Field imm = BitVec.ofNat 32 imm :=
  lowField_eq_ofNat (imm16_back h)

theorem shamtField_eq_ofNat {shamt : Nat} (h : shamtFits shamt = true) :
    shamtField shamt = BitVec.ofNat 32 shamt :=
  lowField_eq_ofNat (shamt_back h)

/-- An `imm16` fits a register of every width. -/
theorem imm16_lt_two_pow_bits {imm : Nat} (h : imm16Fits imm = true) (f : WideFile) :
    imm < 2 ^ f.bits :=
  calc imm < 65536 := of_decide_eq_true h
    _ = 2 ^ 16 := rfl
    _ ≤ 2 ^ f.bits := Nat.pow_le_pow_right Nat.two_pos (by cases f <;> decide)

/-! ### What each operation does, once for every register file -/

/-- A command that writes one wide register and completes retires with that register changed. -/
theorem complete_retiresWide {f : WideFile} {v : Nat} (hv : v < 2 ^ f.bits) (rd : Reg) (s : State) :
    ∃ t, complete (s.writeWide f rd v) = .next t ∧ RetiresWide f rd v s.flags s t :=
  ⟨_, rfl, retiresWide_write s f rd v hv⟩

theorem addOp_retiresWide (f : WideFile) (rd ra rb : Reg) (s : State) :
    ∃ t, addOp f rd ra rb s = .next t ∧
      RetiresWide f rd ((s.readWide f ra + s.readWide f rb) % 2 ^ f.bits)
        { s.flags with c := decide (2 ^ f.bits ≤ s.readWide f ra + s.readWide f rb) } s t :=
  ⟨_, rfl, retiresWide_write_setC s f rd _ _ (Nat.mod_lt _ (Nat.two_pow_pos _))⟩

/-- The model's difference modulo `M` of two values below `M`: exact, or raised by `M` where it
borrows. -/
theorem add_sub_mod_eq_ite {M a b : Nat} (ha : a < M) (hb : b < M) :
    (M + a - b) % M = if b ≤ a then a - b else a + M - b := by
  split
  · next hle => rw [Nat.add_sub_assoc hle, Nat.add_mod_left, Nat.mod_eq_of_lt (by omega)]
  · rw [Nat.add_comm M a, Nat.mod_eq_of_lt (by omega)]

theorem subOp_retiresWide (f : WideFile) (rd ra rb : Reg) (s : State) :
    ∃ t, subOp f rd ra rb s = .next t ∧
      RetiresWide f rd
        (if s.readWide f rb ≤ s.readWide f ra then s.readWide f ra - s.readWide f rb
          else s.readWide f ra + 2 ^ f.bits - s.readWide f rb)
        { s.flags with c := decide (s.readWide f ra < s.readWide f rb) } s t := by
  rw [← add_sub_mod_eq_ite (readWide_lt s f ra) (readWide_lt s f rb)]
  exact ⟨_, rfl, retiresWide_write_setC s f rd _ _ (Nat.mod_lt _ (Nat.two_pow_pos _))⟩

/-- The product of two registers fits the file of twice their width. -/
theorem mulwOp_retiresWide {wide f : WideFile} (hwide : wide.bits = f.bits + f.bits) (rd ra rb : Reg)
    (s : State) : ∃ t, mulwOp wide f rd ra rb s = .next t ∧
      RetiresWide wide rd (s.readWide f ra * s.readWide f rb) s.flags s t := by
  refine complete_retiresWide ?_ rd s
  rw [hwide, Nat.pow_add]
  exact Nat.mul_lt_mul'' (readWide_lt s f ra) (readWide_lt s f rb)

theorem divOp_retiresWide {f : WideFile} {rd ra rb : Reg} {s : State} (h0 : s.readWide f rb ≠ 0)
    (word : CommandWord) : ∃ t, divOp f rd ra rb word s = .next t ∧
      RetiresWide f rd (s.readWide f ra / s.readWide f rb) s.flags s t := by
  rw [divOp, if_neg h0]
  exact complete_retiresWide (Nat.div_le_self _ _ |>.trans_lt (readWide_lt s f ra)) rd s

theorem divOp_raises {f : WideFile} {rd ra rb : Reg} {s : State} (h0 : s.readWide f rb = 0)
    (word : CommandWord) : ∃ t, divOp f rd ra rb word s = .next t ∧
      RaisesOnly .divisionByZero word s t ∧ t.cause = 2 := by
  rw [divOp, if_pos h0]
  exact ⟨_, rfl, rfl, rfl⟩

theorem shlOp_retiresWide (f : WideFile) (rd ra : Reg) (n : Nat) (s : State) :
    ∃ t, shlOp f rd ra n s = .next t ∧
      RetiresWide f rd (if f.bits ≤ n then 0 else s.readWide f ra * 2 ^ n % 2 ^ f.bits)
        s.flags s t := by
  unfold shlOp
  split
  · exact complete_retiresWide (Nat.two_pow_pos _) rd s
  · exact complete_retiresWide (Nat.mod_lt _ (Nat.two_pow_pos _)) rd s

theorem shrOp_retiresWide (f : WideFile) (rd ra : Reg) (n : Nat) (s : State) :
    ∃ t, shrOp f rd ra n s = .next t ∧
      RetiresWide f rd (if f.bits ≤ n then 0 else s.readWide f ra / 2 ^ n) s.flags s t := by
  unfold shrOp
  split
  · exact complete_retiresWide (Nat.two_pow_pos _) rd s
  · exact complete_retiresWide (Nat.div_le_self _ _ |>.trans_lt (readWide_lt s f ra)) rd s

/-- Two numbers are not both equal and in order, so `CMP` never sets both `Z` and `L`. -/
theorem cmpOp_retiresFlags (f : WideFile) (ra rb : Reg) (s : State) :
    ∃ t, cmpOp f ra rb s = .next t ∧ ¬ (t.flags.z = true ∧ t.flags.l = true) ∧
      RetiresFlags { s.flags with
        z := decide (s.readWide f ra = s.readWide f rb)
        l := decide (s.readWide f ra < s.readWide f rb) } s t := by
  refine ⟨_, rfl, ?_, retiresFlags_setZL s _ _⟩
  simp only [retire_flags, setZL_flags, equalOf, lessOf, decide_eq_true_eq]
  omega

theorem upcOp_retiresWide {wide narrow : WideFile} (hle : narrow.bits ≤ wide.bits) (rd ra : Reg)
    (s : State) : ∃ t, upcOp wide narrow rd ra s = .next t ∧
      RetiresWide wide rd (s.readWide narrow ra) s.flags s t :=
  complete_retiresWide
    ((readWide_lt s narrow ra).trans_le (Nat.pow_le_pow_right Nat.two_pos hle)) rd s

theorem dncOp_retiresWide (narrow wide : WideFile) (rd ra : Reg) (s : State) :
    ∃ t, dncOp narrow wide rd ra s = .next t ∧
      RetiresWide narrow rd (s.readWide wide ra % 2 ^ narrow.bits) s.flags s t :=
  complete_retiresWide (Nat.mod_lt _ (Nat.two_pow_pos _)) rd s

/-- `SNR` compares with the greatest value of the target width (R131), the model with `2^Wt`. -/
theorem snrOp_retiresWide (narrow wide : WideFile) (rd ra : Reg) (s : State) :
    ∃ t, snrOp narrow wide rd ra s = .next t ∧
      RetiresWide narrow rd
        (if s.readWide wide ra ≤ 2 ^ narrow.bits - 1 then s.readWide wide ra else 0) s.flags s t := by
  simp only [Nat.le_sub_one_iff_lt (Nat.two_pow_pos _), snrOp]
  split
  · next hlt => exact complete_retiresWide hlt rd s
  · exact complete_retiresWide (Nat.two_pow_pos _) rd s

/-! ### The statements

Each row of a command's list is the command's one operation at the row's register files; the
operation's lemma says the rest. -/

/-- Settles O10: the immediate fits its field of the word and a register of every width. -/
theorem wliLoadsImmediate : Obligations.WliLoadsImmediate := by
  intro s rd imm f m i hwf hrow
  obtain ⟨hword, hexec, hfits⟩ : encode i = m ||| regField rd 20 ||| imm16Field imm ∧
      exec i s = wliOp f rd imm s ∧ imm16Fits imm = true := by
    rcases hrow with _ | ⟨_, _ | ⟨_, _ | ⟨_, ⟨⟩⟩⟩⟩ <;> exact ⟨rfl, rfl, hwf⟩
  rw [hword, hexec, imm16Field_eq_ofNat hfits]
  exact ⟨rfl, complete_retiresWide (imm16_lt_two_pow_bits hfits f) rd s⟩

/-- Settles O11: the carry is computed from the exact sum, the register gets its residue. -/
theorem addWrapsAndCarries : Obligations.AddWrapsAndCarries := by
  intro s rd ra rb f m i hrow
  obtain ⟨hword, hexec⟩ :
      encode i = m ||| regField rd 20 ||| regField ra 16 ||| regField rb 12 ∧
        exec i s = addOp f rd ra rb s := by
    rcases hrow with _ | ⟨_, _ | ⟨_, _ | ⟨_, ⟨⟩⟩⟩⟩ <;> exact ⟨rfl, rfl⟩
  rw [hexec]
  exact ⟨hword, addOp_retiresWide f rd ra rb s⟩

/-- Settles O12: the model subtracts modulo `2^W`; `add_sub_mod_eq_ite` splits off the borrow. -/
theorem subWrapsAndBorrows : Obligations.SubWrapsAndBorrows := by
  intro s rd ra rb f m i hrow
  obtain ⟨hword, hexec⟩ :
      encode i = m ||| regField rd 20 ||| regField ra 16 ||| regField rb 12 ∧
        exec i s = subOp f rd ra rb s := by
    rcases hrow with _ | ⟨_, _ | ⟨_, _ | ⟨_, ⟨⟩⟩⟩⟩ <;> exact ⟨rfl, rfl⟩
  rw [hexec]
  exact ⟨hword, subOp_retiresWide f rd ra rb s⟩

/-- Settles O13: the destination has twice the operands' width, so the product is not cut. -/
theorem mulwExactProduct : Obligations.MulwExactProduct := by
  intro s rd ra rb f wide m i hrow
  obtain ⟨hword, hexec, hwide⟩ :
      encode i = m ||| regField rd 20 ||| regField ra 16 ||| regField rb 12 ∧
        exec i s = mulwOp wide f rd ra rb s ∧ wide.bits = f.bits + f.bits := by
    rcases hrow with _ | ⟨_, _ | ⟨_, ⟨⟩⟩⟩ <;> exact ⟨rfl, rfl, rfl⟩
  rw [hexec]
  exact ⟨hword, mulwOp_retiresWide hwide rd ra rb s⟩

/-- Settles O14: the two ends of `DIV`, by the divisor. -/
theorem divFloorOrZeroDivisor : Obligations.DivFloorOrZeroDivisor := by
  intro s rd ra rb f m i hrow
  obtain ⟨hword, hexec⟩ :
      encode i = m ||| regField rd 20 ||| regField ra 16 ||| regField rb 12 ∧
        exec i s = divOp f rd ra rb (encode i) s := by
    rcases hrow with _ | ⟨_, _ | ⟨_, _ | ⟨_, ⟨⟩⟩⟩⟩ <;> exact ⟨rfl, rfl⟩
  rw [hexec]
  exact ⟨hword, fun h0 => divOp_retiresWide h0 (encode i), fun h0 => divOp_raises h0 (encode i)⟩

/-- Settles O15: the distance fits its field of the word, and `shlOp_retiresWide` covers both ranges. -/
theorem shlByDistance : Obligations.ShlByDistance := by
  intro s rd ra n f m i hwf hrow
  obtain ⟨hword, hexec, hfits⟩ :
      encode i = m ||| regField rd 20 ||| regField ra 16 ||| shamtField n ∧
        exec i s = shlOp f rd ra n s ∧ shamtFits n = true := by
    rcases hrow with _ | ⟨_, _ | ⟨_, _ | ⟨_, ⟨⟩⟩⟩⟩ <;> exact ⟨rfl, rfl, hwf⟩
  rw [hword, hexec, shamtField_eq_ofNat hfits]
  exact ⟨rfl, shlOp_retiresWide f rd ra n s⟩

/-- Settles O16: the distance fits its field of the word, and `shrOp_retiresWide` covers both ranges. -/
theorem shrByDistance : Obligations.ShrByDistance := by
  intro s rd ra n f m i hwf hrow
  obtain ⟨hword, hexec, hfits⟩ :
      encode i = m ||| regField rd 20 ||| regField ra 16 ||| shamtField n ∧
        exec i s = shrOp f rd ra n s ∧ shamtFits n = true := by
    rcases hrow with _ | ⟨_, _ | ⟨_, _ | ⟨_, ⟨⟩⟩⟩⟩ <;> exact ⟨rfl, rfl, hwf⟩
  rw [hword, hexec, shamtField_eq_ofNat hfits]
  exact ⟨rfl, shrOp_retiresWide f rd ra n s⟩

/-- Settles O17: `cmpOp_retiresFlags` at each width. -/
theorem cmpSetsZAndL : Obligations.CmpSetsZAndL := by
  intro s ra rb f m i hrow
  obtain ⟨hword, hexec⟩ : encode i = m ||| regField ra 16 ||| regField rb 12 ∧
      exec i s = cmpOp f ra rb s := by
    rcases hrow with _ | ⟨_, _ | ⟨_, _ | ⟨_, ⟨⟩⟩⟩⟩ <;> exact ⟨rfl, rfl⟩
  rw [hexec]
  exact ⟨hword, cmpOp_retiresFlags f ra rb s⟩

/-- Settles O18: the upcast leaves the narrow source's value in the wide register, and a value below
`2^Wt` is its own residue, which is what the downcast writes. -/
theorem upcLosesNothing : Obligations.UpcLosesNothing := by
  intro s rd ra rx narrow wide m up down hrow
  obtain ⟨hword, hup, hdown, hle⟩ : encode up = m ||| regField rd 20 ||| regField ra 16 ∧
      exec up s = upcOp wide narrow rd ra s ∧ (∀ t, exec down t = dncOp narrow wide rx rd t) ∧
        narrow.bits ≤ wide.bits := by
    rcases hrow with _ | ⟨_, _ | ⟨_, _ | ⟨_, ⟨⟩⟩⟩⟩ <;> exact ⟨rfl, rfl, fun _ => rfl, by decide⟩
  obtain ⟨t, ht, hretires⟩ := upcOp_retiresWide hle rd ra s
  have hback : t.readWide wide rd % 2 ^ narrow.bits = s.readWide narrow ra := by
    have hvalue : t.readWide wide rd = s.readWide narrow ra := hretires.1
    rw [hvalue, Nat.mod_eq_of_lt (readWide_lt s narrow ra)]
  refine ⟨hword, t, hup.trans ht, hretires, ?_⟩
  rw [hdown, ← hback]
  exact dncOp_retiresWide narrow wide rx rd t

/-- Settles O19: a residue modulo `2^Wt` always fits the narrow register. -/
theorem dncTruncates : Obligations.DncTruncates := by
  intro s rd ra narrow wide m i hrow
  obtain ⟨hword, hexec⟩ : encode i = m ||| regField rd 20 ||| regField ra 16 ∧
      exec i s = dncOp narrow wide rd ra s := by
    rcases hrow with _ | ⟨_, _ | ⟨_, _ | ⟨_, ⟨⟩⟩⟩⟩ <;> exact ⟨rfl, rfl⟩
  rw [hexec]
  exact ⟨hword, dncOp_retiresWide narrow wide rd ra s⟩

/-- Settles O20: `snrOp_retiresWide` for each pair. -/
theorem snrKeepsOrClampsToZero : Obligations.SnrKeepsOrClampsToZero := by
  intro s rd ra narrow wide m i hrow
  obtain ⟨hword, hexec⟩ : encode i = m ||| regField rd 20 ||| regField ra 16 ∧
      exec i s = snrOp narrow wide rd ra s := by
    rcases hrow with _ | ⟨_, _ | ⟨_, _ | ⟨_, ⟨⟩⟩⟩⟩ <;> exact ⟨rfl, rfl⟩
  rw [hexec]
  exact ⟨hword, snrOp_retiresWide narrow wide rd ra s⟩

end Sys2Proof.Machine

/-! ## Multiply-divide (41_muldiv.md R160 to R168) -/

namespace Sys2Proof.Machine

/-! ### The narrowing division, once for `DIVN`, `MDF` and `MDC` (R161 to R163, R167) -/

theorem narrowingDivide_retiresWide {f : WideFile} {num den : Nat} (h0 : den ≠ 0)
    (hfits : num / den < 2 ^ f.bits) (rd : Reg) (word : CommandWord) (s : State) :
    ∃ t, narrowingDivide f rd num den word s = .next t ∧
      RetiresWide f rd (num / den) s.flags s t := by
  rw [narrowingDivide, if_neg h0, if_neg (Nat.not_le.2 hfits)]
  exact complete_retiresWide hfits rd s

/-- The zero divisor decides the cause whatever the dividend is (R167). -/
theorem narrowingDivide_zeroDivisor {den : Nat} (h0 : den = 0) (f : WideFile) (rd : Reg) (num : Nat)
    (word : CommandWord) (s : State) :
    narrowingDivide f rd num den word s = trap .divisionByZero word s :=
  if_pos h0

theorem narrowingDivide_overflow {f : WideFile} {num den : Nat} (h0 : den ≠ 0)
    (hbig : 2 ^ f.bits ≤ num / den) (rd : Reg) (word : CommandWord) (s : State) :
    narrowingDivide f rd num den word s = trap .arithmeticOverflow word s := by
  rw [narrowingDivide, if_neg h0, if_pos hbig]

theorem narrowingDivide_raises_zero {den : Nat} (h0 : den = 0) (f : WideFile) (rd : Reg) (num : Nat)
    (word : CommandWord) (s : State) :
    ∃ t, narrowingDivide f rd num den word s = .next t ∧
      RaisesOnly .divisionByZero word s t ∧ t.cause = 2 :=
  ⟨_, narrowingDivide_zeroDivisor h0 f rd num word s, rfl, rfl⟩

theorem narrowingDivide_raises_overflow {f : WideFile} {num den : Nat} (h0 : den ≠ 0)
    (hbig : 2 ^ f.bits ≤ num / den) (rd : Reg) (word : CommandWord) (s : State) :
    ∃ t, narrowingDivide f rd num den word s = .next t ∧
      RaisesOnly .arithmeticOverflow word s t ∧ t.cause = 3 :=
  ⟨_, narrowingDivide_overflow h0 hbig rd word s, rfl, rfl⟩

/-- The division retires exactly where the divisor is not 0 and the quotient fits, and it then leaves
the quotient: what a program sees of it in `PC` and `rd`. -/
theorem narrowingDivide_outcome (f : WideFile) (rd : Reg) (num den : Nat) (word : CommandWord)
    (s : State) : ∃ t, narrowingDivide f rd num den word s = .next t ∧
      (t.pc = s.pc + 1 ↔ den ≠ 0 ∧ num / den < 2 ^ f.bits) ∧
      (t.pc = s.pc + 1 → t.readWide f rd = num / den) := by
  obtain ⟨t, ht, -⟩ := narrowingDivide_retiresOrRaises word f rd num den s
  refine ⟨t, ht, ?_⟩
  rcases narrowingDivide_cases ht with ⟨h0, rfl⟩ | ⟨h0, hbig, rfl⟩ | ⟨h0, hfits, rfl⟩
  · simp [h0]
  · simp [hbig]
  · simp [h0, hfits, readWide_writeWide_same, Nat.mod_eq_of_lt]

/-! ### Ceilings (R163, R164) -/

/-- The model's numerator gives the quotient that brackets the exact one from above. -/
theorem add_pred_div_eq {p m r : Nat} (hle : p ≤ r * m) (hlt : r * m < p + m) :
    (p + (m - 1)) / m = r := by
  apply Nat.div_eq_of_lt_le
  · omega
  · rw [Nat.succ_mul]
    omega

/-- The ceiling is the floor where the division is exact, else one more. -/
theorem add_pred_div_eq_ite {p m : Nat} (hm : m ≠ 0) :
    (p + (m - 1)) / m = if m ∣ p then p / m else p / m + 1 := by
  have hlt : p % m < m := Nat.mod_lt p (Nat.pos_of_ne_zero hm)
  have hp : p / m * m + p % m = p := Nat.div_add_mod' p m
  simp only [Nat.dvd_iff_mod_eq_zero]
  split
  · exact add_pred_div_eq (by omega) (by omega)
  · exact add_pred_div_eq (by rw [Nat.succ_mul]; omega) (by rw [Nat.succ_mul]; omega)

/-- A product of two values below `M` leaves room for a third one below `M * M` (R164). -/
theorem mul_add_lt_mul_self {M v n k : Nat} (hv : v < M) (hn : n < M) (hk : k < M) :
    v * n + k < M * M :=
  calc v * n + k < v * M + M := Nat.add_lt_add_of_le_of_lt (Nat.mul_le_mul_left v hn.le) hk
    _ = (v + 1) * M := (Nat.succ_mul v M).symm
    _ ≤ M * M := Nat.mul_le_mul_right M hv

/-! ### The sequences of R165 -/

/-- From `s` to `t` the registers of file `f` and `CAUSE` are kept: all that the last command of a
sequence of R165 shares with the one command it stands for, since the temporaries are in the wider
file. -/
structure KeepsFileAndCause (f : WideFile) (s t : State) : Prop where
  file : ∀ r, t.readWide f r = s.readWide f r
  cause : t.cause = s.cause

theorem KeepsFileAndCause.trans {f : WideFile} {s t u : State} (hst : KeepsFileAndCause f s t)
    (htu : KeepsFileAndCause f t u) : KeepsFileAndCause f s u :=
  ⟨fun r => (htu.file r).trans (hst.file r), htu.cause.trans hst.cause⟩

theorem RetiresWide.value {wide : WideFile} {y : Reg} {v : Nat} {fl : Flags} {s t : State}
    (h : RetiresWide wide y v fl s t) : t.readWide wide y = v :=
  h.1

theorem RetiresWide.other {wide : WideFile} {y : Reg} {v : Nat} {fl : Flags} {s t : State}
    (h : RetiresWide wide y v fl s t) {r : Reg} (hr : r ≠ y) :
    t.readWide wide r = s.readWide wide r := by
  obtain ⟨-, hwide, -⟩ := h
  exact hwide wide r fun e => hr e.2

theorem RetiresWide.keepsFileAndCause {wide f : WideFile} (hne : f ≠ wide) {y : Reg} {v : Nat}
    {fl : Flags} {s t : State} (h : RetiresWide wide y v fl s t) : KeepsFileAndCause f s t := by
  obtain ⟨-, hwide, -, -, ⟨⟨hcause, -⟩, -⟩, -⟩ := h
  exact ⟨fun r => hwide f r fun e => hne e.1, hcause⟩

/-- Two narrowing divisions by one divisor end alike where the file and `CAUSE` are the same; by a zero
divisor they do so whatever their dividends are. -/
theorem narrowingDivide_agree {f : WideFile} {s s' : State} (hs : KeepsFileAndCause f s s')
    {num num' den : Nat} (hnum : den ≠ 0 → num' = num) (rd : Reg) (word word' : CommandWord) :
    ∃ x u, narrowingDivide f rd num den word s = .next x ∧
      narrowingDivide f rd num' den word' s' = .next u ∧
      x.readWide f rd = u.readWide f rd ∧ x.cause = u.cause ∧
      (x.pc = s.pc + 1 ↔ u.pc = s'.pc + 1) := by
  obtain ⟨hfile, hcause⟩ := hs
  by_cases h0 : den = 0
  · exact ⟨_, _, narrowingDivide_zeroDivisor h0 .., narrowingDivide_zeroDivisor h0 ..,
      by simp [hfile], by simp, by simp⟩
  rw [hnum h0]
  by_cases hfits : num / den < 2 ^ f.bits
  · obtain ⟨x, hx, hvx, -, -, -, ⟨⟨hcx, -⟩, -⟩, -, hpx⟩ :=
      narrowingDivide_retiresWide h0 hfits rd word s
    obtain ⟨u, hu, hvu, -, -, -, ⟨⟨hcu, -⟩, -⟩, -, hpu⟩ :=
      narrowingDivide_retiresWide h0 hfits rd word' s'
    exact ⟨x, u, hx, hu, by rw [hvx, hvu], by rw [hcx, hcu, hcause], by simp only [hpx, hpu]⟩
  · have hbig := Nat.not_lt.1 hfits
    exact ⟨_, _, narrowingDivide_overflow h0 hbig .., narrowingDivide_overflow h0 hbig ..,
      by simp [hfile], by simp, by simp⟩

/-- The first five commands of `MDC`'s sequence leave the ceiling's numerator in `yT`: neither the `SUB`
nor, by R164, the `ADD` wraps where the denominator is not 0. -/
theorem ceilNumerator_sequence {f wide : WideFile} (hne : f ≠ wide)
    (hwide : wide.bits = f.bits + f.bits) {yT yU y1 : Reg} (hTU : yT ≠ yU) (hT1 : yT ≠ y1)
    (hU1 : yU ≠ y1) (rv rn rm : Reg) (s : State) :
    ∃ s1 s2 s3 s4 s5, mulwOp wide f yT rv rn s = .next s1 ∧ upcOp wide f yU rm s1 = .next s2 ∧
      wliOp wide y1 1 s2 = .next s3 ∧ subOp wide yU yU y1 s3 = .next s4 ∧
      addOp wide yT yT yU s4 = .next s5 ∧ KeepsFileAndCause f s s5 ∧
      (s.readWide f rm ≠ 0 →
        s5.readWide wide yT = s.readWide f rv * s.readWide f rn + (s.readWide f rm - 1)) := by
  obtain ⟨s1, h1, r1⟩ := mulwOp_retiresWide hwide yT rv rn s
  obtain ⟨s2, h2, r2⟩ := upcOp_retiresWide (narrow := f) (wide := wide) (by omega) yU rm s1
  obtain ⟨s3, h3, r3⟩ := complete_retiresWide (imm16_lt_two_pow_bits (imm := 1) rfl wide) y1 s2
  obtain ⟨s4, h4, r4⟩ := subOp_retiresWide wide yU yU y1 s3
  obtain ⟨s5, h5, r5⟩ := addOp_retiresWide wide yT yT yU s4
  have k1 := r1.keepsFileAndCause hne
  have k4 := (r2.keepsFileAndCause hne).trans
    ((r3.keepsFileAndCause hne).trans (r4.keepsFileAndCause hne))
  refine ⟨s1, s2, s3, s4, s5, h1, h2, h3, h4, h5,
    k1.trans (k4.trans (r5.keepsFileAndCause hne)), fun hm => ?_⟩
  have hU3 : s3.readWide wide yU = s.readWide f rm := by
    rw [r3.other hU1, r2.value, k1.file]
  have hU4 : s4.readWide wide yU = s.readWide f rm - 1 := by
    rw [r4.value, hU3, r3.value, if_pos (Nat.one_le_iff_ne_zero.2 hm)]
  have hT4 : s4.readWide wide yT = s.readWide f rv * s.readWide f rn := by
    rw [r4.other hTU, r3.other hT1, r2.other hTU, r1.value]
  rw [r5.value, hT4, hU4, Nat.mod_eq_of_lt]
  rw [hwide, Nat.pow_add]
  exact mul_add_lt_mul_self (readWide_lt s f rv) (readWide_lt s f rn)
    ((Nat.sub_le _ 1).trans_lt (readWide_lt s f rm))

/-! ### The statements

As in the wide arithmetic, each row is one operation at the row's register files. -/

/-- Settles O21: the three ends of the narrowing division, by the divisor and the quotient. -/
theorem divnNarrowsOrFaults : Obligations.DivnNarrowsOrFaults := by
  intro s rd ra rb f wide m i hrow
  obtain ⟨hword, hexec⟩ :
      encode i = m ||| regField rd 20 ||| regField ra 16 ||| regField rb 12 ∧
        exec i s = divnOp f wide rd ra rb (encode i) s := by
    rcases hrow with _ | ⟨_, _ | ⟨_, ⟨⟩⟩⟩ <;> exact ⟨rfl, rfl⟩
  rw [hexec]
  exact ⟨hword, fun h0 hfits => narrowingDivide_retiresWide h0 hfits ..,
    fun h0 => narrowingDivide_raises_zero h0 ..,
    fun h0 hbig => narrowingDivide_raises_overflow h0 hbig ..⟩

/-- Settles O22: the narrowing division of the exact product, which is not cut. -/
theorem mdfFloorOrFaults : Obligations.MdfFloorOrFaults := by
  intro s rd rv rn rm f m i hrow
  obtain ⟨hword, hexec⟩ :
      encode i = m ||| regField rd 20 ||| regField rv 16 ||| regField rn 12 ||| regField rm 8 ∧
        exec i s = mdfOp f rd rv rn rm (encode i) s := by
    rcases hrow with _ | ⟨_, _ | ⟨_, ⟨⟩⟩⟩ <;> exact ⟨rfl, rfl⟩
  rw [hexec]
  exact ⟨hword, fun h0 hfits => narrowingDivide_retiresWide h0 hfits ..,
    fun h0 => narrowingDivide_raises_zero h0 ..,
    fun h0 hbig => narrowingDivide_raises_overflow h0 hbig ..⟩

/-- Settles O23: a number in the bracket is the model's quotient (`add_pred_div_eq`), and there is none
for a zero denominator. -/
theorem mdcCeilOrFaults : Obligations.MdcCeilOrFaults := by
  intro s rd rv rn rm f m i hrow
  obtain ⟨hword, hexec⟩ :
      encode i = m ||| regField rd 20 ||| regField rv 16 ||| regField rn 12 ||| regField rm 8 ∧
        exec i s = mdcOp f rd rv rn rm (encode i) s := by
    rcases hrow with _ | ⟨_, _ | ⟨_, ⟨⟩⟩⟩ <;> exact ⟨rfl, rfl⟩
  rw [hexec]
  refine ⟨hword, fun r hle hlt => ?_, fun h0 => narrowingDivide_raises_zero h0 ..⟩
  have h0 : s.readWide f rm ≠ 0 := by omega
  obtain rfl := add_pred_div_eq hle hlt
  exact ⟨fun hfits => narrowingDivide_retiresWide h0 hfits ..,
    fun hbig => narrowingDivide_raises_overflow h0 hbig ..⟩

/-- Settles O24: `MULW` puts `MDF`'s dividend into the wider file and keeps everything else that the
division looks at. -/
theorem mdfIsMulwThenDivn : Obligations.MdfIsMulwThenDivn := by
  intro s rd rv rn rm ry f mdf mulw divn hrow
  obtain ⟨wide, hne, hwide, hmdf, hmulw, hdivn⟩ :
      ∃ wide : WideFile, f ≠ wide ∧ wide.bits = f.bits + f.bits ∧
        exec mdf s = mdfOp f rd rv rn rm (encode mdf) s ∧ exec mulw s = mulwOp wide f ry rv rn s ∧
        ∀ t, exec divn t = divnOp f wide rd ry rm (encode divn) t := by
    rcases hrow with _ | ⟨_, _ | ⟨_, ⟨⟩⟩⟩
    · exact ⟨.q, by decide, rfl, rfl, rfl, fun _ => rfl⟩
    · exact ⟨.o, by decide, rfl, rfl, rfl, fun _ => rfl⟩
  obtain ⟨t, ht, hretires⟩ := mulwOp_retiresWide hwide ry rv rn s
  have hkeeps := hretires.keepsFileAndCause hne
  obtain ⟨x, u, hx, hu, hsame⟩ := narrowingDivide_agree hkeeps (den := s.readWide f rm)
    (fun _ => hretires.value) rd (encode mdf) (encode divn)
  rw [← hkeeps.file rm] at hu
  exact ⟨x, t, u, hmdf.trans hx, hmulw.trans ht, (hdivn t).trans hu, hsame⟩

/-- Settles O25: the five commands before `DIVN` compute `MDC`'s dividend unless the denominator is 0,
and then both raise `DivisionByZero` on any dividend. -/
theorem mdcIsSixCommands : Obligations.MdcIsSixCommands := by
  intro s rd rv rn rm yT yU y1 f mdc c1 c2 c3 c4 c5 c6 hTU hT1 hU1 hrow
  obtain ⟨wide, hne, hwide, hmdc, e1, e2, e3, e4, e5, e6⟩ :
      ∃ wide : WideFile, f ≠ wide ∧ wide.bits = f.bits + f.bits ∧
        exec mdc s = mdcOp f rd rv rn rm (encode mdc) s ∧
        (∀ t, exec c1 t = mulwOp wide f yT rv rn t) ∧ (∀ t, exec c2 t = upcOp wide f yU rm t) ∧
        (∀ t, exec c3 t = wliOp wide y1 1 t) ∧ (∀ t, exec c4 t = subOp wide yU yU y1 t) ∧
        (∀ t, exec c5 t = addOp wide yT yT yU t) ∧
        ∀ t, exec c6 t = divnOp f wide rd yT rm (encode c6) t := by
    rcases hrow with _ | ⟨_, _ | ⟨_, ⟨⟩⟩⟩
    · exact ⟨.q, by decide, rfl, rfl, fun _ => rfl, fun _ => rfl, fun _ => rfl, fun _ => rfl,
        fun _ => rfl, fun _ => rfl⟩
    · exact ⟨.o, by decide, rfl, rfl, fun _ => rfl, fun _ => rfl, fun _ => rfl, fun _ => rfl,
        fun _ => rfl, fun _ => rfl⟩
  obtain ⟨s1, s2, s3, s4, s5, h1, h2, h3, h4, h5, hkeeps, hnum⟩ :=
    ceilNumerator_sequence hne hwide hTU hT1 hU1 rv rn rm s
  obtain ⟨x, u, hx, hu, hsame⟩ :=
    narrowingDivide_agree hkeeps hnum rd (encode mdc) (encode c6)
  rw [← hkeeps.file rm] at hu
  exact ⟨x, s1, s2, s3, s4, s5, u, hmdc.trans hx, (e1 s).trans h1, (e2 s1).trans h2,
    (e3 s2).trans h3, (e4 s3).trans h4, (e5 s4).trans h5, (e6 s5).trans hu, hsame⟩

/-- Settles O26: the ceiling is the floor or, where the division is not exact, one more
(`add_pred_div_eq_ite`), so it can leave the range one step before the floor does. -/
theorem floorAndCeilSandwich : Obligations.FloorAndCeilSandwich := by
  intro s rd rv rn rm f mdf mdc hrow
  obtain ⟨hmdf, hmdc⟩ : exec mdf s = mdfOp f rd rv rn rm (encode mdf) s ∧
      exec mdc s = mdcOp f rd rv rn rm (encode mdc) s := by
    rcases hrow with _ | ⟨_, _ | ⟨_, ⟨⟩⟩⟩ <;> exact ⟨rfl, rfl⟩
  obtain ⟨t, ht, htpc, htval⟩ := narrowingDivide_outcome f rd
    (s.readWide f rv * s.readWide f rn) (s.readWide f rm) (encode mdf) s
  obtain ⟨u, hu, hupc, huval⟩ := narrowingDivide_outcome f rd
    (s.readWide f rv * s.readWide f rn + (s.readWide f rm - 1)) (s.readWide f rm) (encode mdc) s
  refine ⟨t, u, hmdf.trans ht, hmdc.trans hu, fun hu1 => ?_, fun ht1 hu1 => ?_⟩
  · obtain ⟨h0, hfits⟩ := hupc.1 hu1
    have huval := huval hu1
    rw [add_pred_div_eq_ite h0] at hfits huval
    have ht1 : t.pc = s.pc + 1 := htpc.2 ⟨h0, by split at hfits <;> omega⟩
    rw [htval ht1, huval]
    split
    · next hdvd => simp [ht1, hdvd]
    · next hdvd => simp [ht1, hdvd]
  · obtain ⟨h0, hfits⟩ := htpc.1 ht1
    have hbig := mt (fun h => hupc.2 ⟨h0, h⟩) hu1
    rw [add_pred_div_eq_ite h0] at hbig
    rw [htval ht1]
    split at hbig
    · exact absurd hfits hbig
    · next hdvd =>
      exact ⟨Nat.eq_sub_of_add_eq (Nat.le_antisymm hfits (Nat.not_lt.1 hbig)), hdvd⟩

end Sys2Proof.Machine

/-! ## Converter (42_converter.md R182 to R191) -/

namespace Sys2Proof.Machine

/-! ### The accumulator falls from each magnitude to the next (R182, R184)

`a` and `a + 1` differ in the lowest clear bit `j` of `a` and the set bits below it, which the ascending
order of R182 multiplies in first. The bits above `j` are common, and their floors lose less than the
table gains at `j`. -/

/-- `r` exceeds `r'` by one part in 25000, but for `n` units lost to floors. Neighbouring ticks are one
part in 20000 apart. -/
def Above (n r r' : Nat) : Prop := 25001 * r' ≤ 25000 * (r + n)

theorem Above.lt {n r r' : Nat} (h : Above n r r') (hr : 25000 * n < r') : r' < r := by
  unfold Above at h
  omega

theorem Above.mono {m n r r' : Nat} (h : Above n r r') (hnm : n ≤ m) : Above m r r' := by
  unfold Above at *
  omega

/-- Multiplying both sides by the same constant costs at most one unit more. -/
theorem Above.step {n r r' : Nat} (h : Above n r r') (k : Ktab) (a : Nat) (i : Fin 19) :
    Above (n + 1) (ratioStep k a r i) (ratioStep k a r' i) := by
  unfold ratioStep
  split
  · have hK : n * (k.get i).toNat ≤ n * 2 ^ 64 := Nat.mul_le_mul_left n (k.get i).isLt.le
    have hmul : 25001 * (r' * (k.get i).toNat) ≤
        25000 * (r * (k.get i).toNat + n * (k.get i).toNat) := by
      linarith [Nat.mul_le_mul_right (k.get i).toNat h]
    unfold Above
    omega
  · unfold Above at *
    omega

theorem Above.foldl {n r r' : Nat} (h : Above n r r') (k : Ktab) (a : Nat)
    (l : List (Fin 19)) :
    Above (n + l.length) (l.foldl (ratioStep k a) r) (l.foldl (ratioStep k a) r') := by
  induction l generalizing n r r' with
  | nil => exact h
  | cons i l ih =>
    rw [List.length_cons, Nat.add_comm l.length, ← Nat.add_assoc]
    exact ih (h.step k a i)

/-- The accumulator after bits 0 to `j`. -/
def ratioLow (k : Ktab) (a j : Nat) : Nat :=
  (ratioBits.take j).foldl (ratioStep k a) (if a.testBit 0 then (k.get 0).toNat else q64One)

theorem ratio_eq_foldl_ratioLow (k : Ktab) (a j : Nat) :
    ratio k a = (ratioBits.drop j).foldl (ratioStep k a) (ratioLow k a j) := by
  rw [ratioLow, ← List.foldl_append, List.take_append_drop, ratio]

theorem ratioBits_take_le : ∀ j : Fin 19, ∀ i ∈ ratioBits.take j, i ≤ j := by decide

theorem ratioBits_drop_gt : ∀ j : Fin 19, ∀ i ∈ ratioBits.drop j, j < i := by decide

theorem foldl_ratioStep_congr {k : Ktab} {a b : Nat} {l : List (Fin 19)}
    (h : ∀ i ∈ l, a.testBit i = b.testBit i) (r : Nat) :
    l.foldl (ratioStep k a) r = l.foldl (ratioStep k b) r :=
  List.foldl_ext _ _ r fun r i hi => by rw [ratioStep, ratioStep, h i hi]

/-- The bits up to `j` enter the start of the fold over the bits above `j` only, and those enter nothing
else. -/
theorem ratio_two_pow_mul_add (k : Ktab) (h : Nat) {j : Fin 19} {b : Nat} (hb : b < 2 ^ (j.val + 1)) :
    ratio k (2 ^ (j.val + 1) * h + b) =
      (ratioBits.drop j).foldl (ratioStep k (2 ^ (j.val + 1) * h)) (ratioLow k b j) := by
  have hlow : ∀ i : Fin 19, i ≤ j → (2 ^ (j.val + 1) * h + b).testBit i = b.testBit i := fun i hi => by
    rw [Nat.testBit_two_pow_mul_add h hb, if_pos (Nat.lt_succ_of_le hi)]
  have hhigh : ∀ i : Fin 19, j < i →
      (2 ^ (j.val + 1) * h + b).testBit i = (2 ^ (j.val + 1) * h).testBit i := fun i hi => by
    rw [Nat.testBit_two_pow_mul_add h hb, if_neg (Nat.not_lt.2 hi), Nat.testBit_two_pow_mul,
      decide_eq_true (show i.val ≥ j.val + 1 from hi), Bool.true_and]
  have hstart : ratioLow k (2 ^ (j.val + 1) * h + b) j = ratioLow k b j := by
    rw [ratioLow, ratioLow, foldl_ratioStep_congr fun i hi => hlow i (ratioBits_take_le j i hi)]
    simp only [show (2 ^ (j.val + 1) * h + b).testBit 0 = b.testBit 0 from hlow 0 (Fin.zero_le j)]
  rw [ratio_eq_foldl_ratioLow k _ j, hstart]
  exact foldl_ratioStep_congr (fun i hi => hhigh i (ratioBits_drop_gt j i hi)) _

/-- A number below its lowest clear bit is all ones. -/
theorem exists_eq_two_pow_mul_add_ones (a : Nat) : ∃ j h, a = 2 ^ (j + 1) * h + (2 ^ j - 1) := by
  induction a using Nat.strong_induction_on with
  | _ a ih =>
    rcases Nat.even_or_odd' a with ⟨b, rfl | rfl⟩
    · exact ⟨0, b, by simp⟩
    · obtain ⟨j, h, hb⟩ := ih b (by omega)
      refine ⟨j + 1, h, ?_⟩
      have := Nat.two_pow_pos j
      have hdouble : 2 ^ (j + 1 + 1) * h = 2 * (2 ^ (j + 1) * h) := by ring
      omega

/-- What the table has to give at each position: the product of the constants below `j` is above
constant `j`. -/
def CarryGap (k : Ktab) : Prop :=
  ∀ j : Fin 19, Above 0 (ratioLow k (2 ^ j.val - 1) j) (ratioLow k (2 ^ j.val) j)

/-- With such a table the accumulator falls, but for the floors of the 18 steps. -/
theorem ratio_above_succ {k : Ktab} (hk : CarryGap k) {a : Nat} (ha : a < 2 ^ 19 - 1) :
    Above 18 (ratio k a) (ratio k (a + 1)) := by
  obtain ⟨j, h, hones⟩ := exists_eq_two_pow_mul_add_ones a
  have hpos := Nat.two_pow_pos j
  have hj : j < 19 := by
    by_contra hj
    have := Nat.pow_le_pow_right Nat.two_pos (not_lt.1 hj)
    omega
  have hcarry : a + 1 = 2 ^ (j + 1) * h + 2 ^ j := by omega
  rw [hcarry, hones, ratio_two_pow_mul_add k h (j := ⟨j, hj⟩) (by dsimp only; omega),
    ratio_two_pow_mul_add k h (j := ⟨j, hj⟩) (by dsimp only; omega)]
  exact ((hk ⟨j, hj⟩).foldl k _ _).mono (by simp [ratioBits])

theorem carryGap_referenceKtab : CarryGap referenceKtab := by
  unfold CarryGap Above
  decide

/-- Down from the least accumulator of the domain, whose value is above the loss to the floors. -/
theorem ratio_referenceKtab_ge {a : Nat} (ha : a ≤ 443636) : 4295048016 ≤ ratio referenceKtab a := by
  induction ha using Nat.decreasingInduction with
  | self => decide
  | of_succ a ha ih =>
    have habove := ratio_above_succ carryGap_referenceKtab (a := a) (by omega)
    exact ih.trans (habove.lt (lt_of_lt_of_le (by decide) ih)).le

theorem ratio_referenceKtab_succ_lt {a : Nat} (ha : a < 443636) :
    ratio referenceKtab (a + 1) < ratio referenceKtab a := by
  have hge : 4295048016 ≤ ratio referenceKtab (a + 1) := ratio_referenceKtab_ge ha
  have habove := ratio_above_succ carryGap_referenceKtab (a := a) (by omega)
  exact habove.lt (by omega)

/-! ### The inversion and the strict order of the prices (R182, R184) -/

theorem tickToSqrtPrice_of_nonpos (k : Ktab) {t : Int} (ht : t ≤ 0) :
    tickToSqrtPrice k t = ratio k t.natAbs :=
  if_neg (not_lt.2 ht)

theorem tickToSqrtPrice_of_pos (k : Ktab) {t : Int} (ht : 0 < t) :
    tickToSqrtPrice k t = (2 ^ 128 - 1) / ratio k t.natAbs :=
  if_pos ht

/-- Inverting in `2^128 - 1` tells all numbers up to `2^64` apart. -/
theorem max_div_lt_max_div {r r' : Nat} (h0 : 0 < r') (hlt : r' < r) (hr : r ≤ 2 ^ 64) :
    (2 ^ 128 - 1) / r < (2 ^ 128 - 1) / r' := by
  have hq : 2 ^ 64 - 1 ≤ (2 ^ 128 - 1) / r := (Nat.le_div_iff_mul_le (h0.trans hlt)).2 (by omega)
  rw [← Nat.succ_le_iff, Nat.le_div_iff_mul_le h0]
  calc ((2 ^ 128 - 1) / r + 1) * r' = (2 ^ 128 - 1) / r * r' + r' := Nat.succ_mul ..
    _ ≤ (2 ^ 128 - 1) / r * r' + (2 ^ 128 - 1) / r := by omega
    _ ≤ (2 ^ 128 - 1) / r * r := Nat.mul_le_mul_left _ hlt
    _ ≤ 2 ^ 128 - 1 := Nat.div_mul_le_self ..

theorem tickToSqrtPrice_referenceKtab_lt_succ {t : Int} (hlo : -443636 ≤ t) (hhi : t < 443636) :
    tickToSqrtPrice referenceKtab t < tickToSqrtPrice referenceKtab (t + 1) := by
  rcases lt_trichotomy t 0 with hneg | rfl | hpos
  · rw [tickToSqrtPrice_of_nonpos _ hneg.le, tickToSqrtPrice_of_nonpos _ (show t + 1 ≤ 0 from hneg),
      show t.natAbs = (t + 1).natAbs + 1 by omega]
    exact ratio_referenceKtab_succ_lt (by omega)
  · decide
  · rw [tickToSqrtPrice_of_pos _ hpos, tickToSqrtPrice_of_pos _ (by omega : 0 < t + 1),
      show (t + 1).natAbs = t.natAbs + 1 by omega]
    exact max_div_lt_max_div (Nat.lt_of_lt_of_le (by decide) (ratio_referenceKtab_ge (by omega)))
      (ratio_referenceKtab_succ_lt (by omega)) (ratio_le ..)

/-- R184 on the reference table. -/
theorem tickToSqrtPrice_referenceKtab_strictMonoOn :
    StrictMonoOn (tickToSqrtPrice referenceKtab) (Set.Icc minTick maxTick) :=
  strictMonoOn_of_lt_add_one Set.ordConnected_Icc fun _ _ ht ht' =>
    tickToSqrtPrice_referenceKtab_lt_succ ht.1 ht'.2

theorem tickToSqrtPrice_referenceKtab_minTick :
    tickToSqrtPrice referenceKtab minTick = minSqrtPrice := by decide

theorem tickToSqrtPrice_referenceKtab_maxTick :
    tickToSqrtPrice referenceKtab maxTick = maxSqrtPrice := by decide

/-- Below the top of the domain the price is one that `SP2T` takes. -/
theorem tickToSqrtPrice_referenceKtab_mem {t : Int} (hlo : minTick ≤ t) (hhi : t < maxTick) :
    minSqrtPrice ≤ tickToSqrtPrice referenceKtab t ∧
      tickToSqrtPrice referenceKtab t < maxSqrtPrice := by
  have hmono := tickToSqrtPrice_referenceKtab_strictMonoOn
  rw [← tickToSqrtPrice_referenceKtab_minTick, ← tickToSqrtPrice_referenceKtab_maxTick]
  exact ⟨hmono.monotoneOn ⟨le_refl _, by decide⟩ ⟨hlo, hhi.le⟩ hlo,
    hmono ⟨hlo, hhi.le⟩ ⟨by decide, le_refl _⟩ hhi⟩

/-- Settles O29: the order gives the range from its two ends. -/
theorem referenceTableStrictlyMonotone : Obligations.ReferenceTableStrictlyMonotone := by
  have hmono := tickToSqrtPrice_referenceKtab_strictMonoOn
  have htop := tickToSqrtPrice_referenceKtab_maxTick
  refine ⟨fun t1 t2 hlo hlt hhi => hmono ⟨hlo, (hlt.trans_le hhi).le⟩ ⟨hlo.trans hlt.le, hhi⟩ hlt,
    tickToSqrtPrice_referenceKtab_minTick, htop, fun t hlo hhi => ?_⟩
  obtain hlt | rfl := lt_or_eq_of_le hhi
  · obtain ⟨hmin, hmax⟩ := tickToSqrtPrice_referenceKtab_mem hlo hlt
    exact ⟨hmin, hmax.le⟩
  · exact ⟨le_of_le_of_eq (by decide) htop.symm, htop.le⟩

/-! ### The two commands (R183, R185, R186) -/

theorem tickInDomain_iff {t : Int} : tickInDomain t = true ↔ minTick ≤ t ∧ t ≤ maxTick :=
  decide_eq_true_iff

theorem priceInDomain_iff {p : Nat} :
    priceInDomain p = true ↔ minSqrtPrice ≤ p ∧ p < maxSqrtPrice :=
  decide_eq_true_iff

theorem execT2sp_retiresWide {s : State} {ra : TReg} (hlo : minTick ≤ s.readT ra)
    (hhi : s.readT ra ≤ maxTick) (rd : DReg) :
    ∃ t, execT2sp rd ra s = .next t ∧
      RetiresWide .d rd (tickToSqrtPrice s.cfg.ktab (s.readT ra)) s.flags s t := by
  rw [execT2sp, if_pos (tickInDomain_iff.2 ⟨hlo, hhi⟩)]
  exact complete_retiresWide (tickToSqrtPrice_lt ..) rd s

theorem execT2sp_raises {s : State} {ra : TReg}
    (h : s.readT ra < minTick ∨ maxTick < s.readT ra) (rd : DReg) :
    execT2sp rd ra s = trap .invalidTick (encode (.t2sp rd ra)) s :=
  if_neg fun hin => by
    obtain ⟨hlo, hhi⟩ := tickInDomain_iff.1 hin
    omega

theorem execSp2t_raises {s : State} {ra : DReg}
    (h : s.readWide .d ra < minSqrtPrice ∨ maxSqrtPrice ≤ s.readWide .d ra) (rd : TReg) :
    execSp2t rd ra s = trap .invalidSqrtPrice (encode (.sp2t rd ra)) s :=
  if_neg fun hin => by
    obtain ⟨hlo, hhi⟩ := priceInDomain_iff.1 hin
    omega

/-- The postcondition of R186, for a table with the two boundary values. -/
theorem sqrtPriceToTick_brackets {k : Ktab} (hbottom : tickToSqrtPrice k minTick = minSqrtPrice)
    (htop : tickToSqrtPrice k maxTick = maxSqrtPrice) {p : Nat} (hlo : minSqrtPrice ≤ p)
    (hhi : p < maxSqrtPrice) :
    tickToSqrtPrice k (sqrtPriceToTick k p) ≤ p ∧ p < tickToSqrtPrice k (sqrtPriceToTick k p + 1) ∧
      minTick ≤ sqrtPriceToTick k p ∧ sqrtPriceToTick k p < maxTick :=
  bisectTick_brackets (by decide) (by decide) (hbottom.le.trans hlo) (hhi.trans_eq htop.symm)

theorem execSp2t_retiresTick {s : State} {ra : DReg}
    (hbottom : tickToSqrtPrice s.cfg.ktab minTick = minSqrtPrice)
    (htop : tickToSqrtPrice s.cfg.ktab maxTick = maxSqrtPrice)
    (hlo : minSqrtPrice ≤ s.readWide .d ra) (hhi : s.readWide .d ra < maxSqrtPrice) (rd : TReg) :
    ∃ t, execSp2t rd ra s = .next t ∧
      RetiresTick rd (sqrtPriceToTick s.cfg.ktab (s.readWide .d ra)) s.flags s t := by
  obtain ⟨-, -, hmin, hmax⟩ := sqrtPriceToTick_brackets hbottom htop hlo hhi
  rw [execSp2t, if_pos (priceInDomain_iff.2 ⟨hlo, hhi⟩)]
  exact ⟨_, rfl, retiresTick_write s rd _ (le_trans (by decide) hmin) (hmax.trans (by decide))⟩

/-- Settles O27: the magnitude bound is the tick domain. -/
theorem t2spConvertsOrRaises : Obligations.T2spConvertsOrRaises := by
  intro s rd ra
  refine ⟨rfl, fun hin => ?_, fun hout => ?_⟩
  · exact execT2sp_retiresWide (by unfold minTick; omega) (by unfold maxTick; omega) rd
  · exact ⟨_, execT2sp_raises (by unfold minTick maxTick; omega) rd, rfl, rfl⟩

/-- Settles O28: the two boundary values bracket a valid price, and bisection keeps the bracket. -/
theorem sp2tBracketsThePrice : Obligations.Sp2tBracketsThePrice := by
  intro s rd ra
  refine ⟨rfl, fun htable hlo hhi => ?_, fun hout => ⟨_, execSp2t_raises hout rd, rfl, rfl⟩⟩
  obtain ⟨t, ht, hretires⟩ := execSp2t_retiresTick htable.bottom htable.top hlo hhi rd
  obtain ⟨hle, hlt, hmin, hmax⟩ := sqrtPriceToTick_brackets htable.bottom htable.top hlo hhi
  exact ⟨t, _, ht, hretires, hmin, Int.le_sub_one_of_lt hmax, hle, hlt⟩

/-- R191 of the functions: the order of the prices leaves one tick in the bracket of R186. -/
theorem sqrtPriceToTick_tickToSqrtPrice {x : Int} (hlo : minTick ≤ x) (hhi : x < maxTick) :
    sqrtPriceToTick referenceKtab (tickToSqrtPrice referenceKtab x) = x := by
  have hmono := tickToSqrtPrice_referenceKtab_strictMonoOn
  obtain ⟨hmin, hmax⟩ := tickToSqrtPrice_referenceKtab_mem hlo hhi
  obtain ⟨hle, hlt, hylo, hyhi⟩ := sqrtPriceToTick_brackets tickToSqrtPrice_referenceKtab_minTick
    tickToSqrtPrice_referenceKtab_maxTick hmin hmax
  have hyx := (hmono.le_iff_le ⟨hylo, hyhi.le⟩ ⟨hlo, hhi.le⟩).1 hle
  have hxy := (hmono.lt_iff_lt ⟨hlo, hhi.le⟩ ⟨by omega, hyhi⟩).1 hlt
  omega

/-- Settles O30: within the domain the price stands in `rd` and the table is still the reference table,
so the second command inverts the first, or meets the price it refuses. -/
theorem referenceTableRoundTrip : Obligations.ReferenceTableRoundTrip := by
  intro s ra rc rd hktab hcause
  by_cases hin : minTick ≤ s.readT ra ∧ s.readT ra ≤ maxTick
  · obtain ⟨t, ht, hprice, -, -, -, ⟨⟨htcause, -, -, htcfg, -, -⟩, -⟩, -, -⟩ :=
      execT2sp_retiresWide hin.1 hin.2 rd
    rw [hktab] at hprice
    rw [← htcfg] at hktab
    refine ⟨t, ht, fun hlo hhi => ?_, fun htop => ⟨htcause.trans hcause, ?_⟩, fun hout => ?_⟩
    · obtain ⟨hmin, hmax⟩ := tickToSqrtPrice_referenceKtab_mem hlo (Int.lt_add_one_of_le hhi)
      obtain ⟨u, hu, htick, -, -, -, ⟨⟨hucause, -⟩, -⟩, -, -⟩ :=
        execSp2t_retiresTick (s := t) (ra := rd) (hktab ▸ tickToSqrtPrice_referenceKtab_minTick)
          (hktab ▸ tickToSqrtPrice_referenceKtab_maxTick) (hprice ▸ hmin) (hprice ▸ hmax) rc
      refine ⟨u, hu, ?_, hucause.trans (htcause.trans hcause)⟩
      rw [htick, hktab, hprice, sqrtPriceToTick_tickToSqrtPrice hlo (Int.lt_add_one_of_le hhi)]
    · rw [htop] at hprice
      exact ⟨_, execSp2t_raises (.inr (hprice ▸ tickToSqrtPrice_referenceKtab_maxTick.ge)) rc, rfl⟩
    · exact absurd hin (by unfold minTick maxTick; omega)
  · have hout : s.readT ra < minTick ∨ maxTick < s.readT ra := by omega
    refine ⟨_, execT2sp_raises hout rd, fun hlo hhi => ?_, fun htop => ?_, fun _ => rfl⟩
    · exact absurd ⟨hlo, hhi.trans (by decide)⟩ hin
    · exact absurd (htop ▸ by decide) hin

/-! ### The hardware's procedure (R187, R188)

Its logarithm is monotone in the price, so that the two ends of the valid prices bound the candidates. -/

/-- The bit that one squaring of R187 (c) tests. -/
def squareBit (r : Nat) : Nat := (r * r) >>> 127

/-- The square, shifted back into the window. -/
def squareNext (r : Nat) : Nat := (r * r) >>> (63 + squareBit r)

theorem logFraction_succ (n r bit frac : Nat) : logFraction (n + 1) r bit frac =
    logFraction n (squareNext r) (bit >>> 1) (frac + bit * squareBit r) :=
  rfl

theorem shiftRight_mono {a b : Nat} (h : a ≤ b) (n : Nat) : a >>> n ≤ b >>> n := by
  rw [Nat.shiftRight_eq_div_pow, Nat.shiftRight_eq_div_pow]
  exact Nat.div_le_div_right h

theorem squareBit_mono {r r' : Nat} (h : r ≤ r') : squareBit r ≤ squareBit r' :=
  shiftRight_mono (Nat.mul_le_mul h h) 127

theorem squareNext_mono {r r' : Nat} (h : r ≤ r') (hbit : squareBit r = squareBit r') :
    squareNext r ≤ squareNext r' := by
  rw [squareNext, squareNext, hbit]
  exact shiftRight_mono (Nat.mul_le_mul h h) _

theorem square_lt {r : Nat} (hr : r < 2 ^ 64) : r * r < 2 ^ 128 :=
  (Nat.mul_lt_mul'' hr hr).trans_eq (by norm_num)

theorem squareBit_le_one {r : Nat} (hr : r < 2 ^ 64) : squareBit r ≤ 1 := by
  have hsq := square_lt hr
  rw [squareBit, Nat.shiftRight_eq_div_pow]
  omega

theorem squareNext_lt {r : Nat} (hr : r < 2 ^ 64) : squareNext r < 2 ^ 64 := by
  have hsq := square_lt hr
  have hbit : squareBit r = r * r / 2 ^ 127 := Nat.shiftRight_eq_div_pow ..
  rw [squareNext, Nat.shiftRight_eq_div_pow]
  obtain h0 | h1 := Nat.le_one_iff_eq_zero_or_eq_one.1 (squareBit_le_one hr)
  · rw [h0]
    omega
  · rw [h1]
    omega

/-- The fraction only grows, by less than twice the weight of its next bit. -/
theorem logFraction_bounds {r : Nat} (hr : r < 2 ^ 64) (n bit frac : Nat) :
    frac ≤ logFraction n r bit frac ∧ logFraction n r bit frac ≤ frac + (2 * bit - 1) := by
  induction n generalizing r bit frac with
  | zero => exact ⟨le_refl _, Nat.le_add_right ..⟩
  | succ n ih =>
    obtain ⟨hge, hle⟩ := ih (squareNext_lt hr) (bit >>> 1) (frac + bit * squareBit r)
    have hbit : bit * squareBit r ≤ bit * 1 := Nat.mul_le_mul_left bit (squareBit_le_one hr)
    rw [logFraction_succ]
    omega

/-- The first bit in which two runs differ outweighs all bits after it. -/
theorem logFraction_mono {r r' frac frac' : Nat} (hr' : r' < 2 ^ 64) (hle : r ≤ r')
    (hfrac : frac ≤ frac') (n bit : Nat) :
    logFraction n r bit frac ≤ logFraction n r' bit frac' := by
  induction n generalizing r r' bit frac frac' with
  | zero => exact hfrac
  | succ n ih =>
    rw [logFraction_succ, logFraction_succ]
    obtain heq | hlt := (squareBit_mono hle).eq_or_lt
    · exact ih (squareNext_lt hr') (squareNext_mono hle heq)
        (by rw [heq]; exact Nat.add_le_add_right hfrac _) _
    · have hbit' := squareBit_le_one hr'
      have h0 : squareBit r = 0 := by omega
      have h1 : squareBit r' = 1 := by omega
      obtain ⟨-, hbelow⟩ := logFraction_bounds (squareNext_lt (hle.trans_lt hr')) n (bit >>> 1) frac
      obtain ⟨habove, -⟩ := logFraction_bounds (squareNext_lt hr') n (bit >>> 1) (frac' + bit)
      rw [h0, h1, Nat.mul_zero, Nat.add_zero, Nat.mul_one]
      omega

theorem normalisePrice_lt (p : Nat) : normalisePrice p (Nat.log2 p) < 2 ^ 64 := by
  have hp : p < 2 ^ (Nat.log2 p + 1) := Nat.lt_log2_self
  unfold normalisePrice
  split
  · rw [Nat.shiftRight_eq_div_pow]
    refine Nat.div_lt_of_lt_mul (hp.trans_eq ?_)
    rw [← pow_add]
    congr 1
    omega
  · refine (Nat.shiftLeft_lt hp).trans_eq ?_
    congr 1
    omega

theorem normalisePrice_mono {p q : Nat} (h : p ≤ q) (m : Nat) :
    normalisePrice p m ≤ normalisePrice q m := by
  unfold normalisePrice
  split
  · exact shiftRight_mono h _
  · rw [Nat.shiftLeft_eq, Nat.shiftLeft_eq]
    exact Nat.mul_le_mul_right _ h

/-- The 64-bit fraction of the logarithm of a price (R187 (b) and (c)). -/
def priceFraction (p : Nat) : Nat :=
  logFraction bitPrecision (normalisePrice p (Nat.log2 p)) (2 ^ 63) 0

theorem scaledLog_eq (p : Nat) : scaledLog p =
    (((Nat.log2 p : Int) - 64) * 2 ^ 32 + ((priceFraction p >>> 32 : Nat) : Int)) * logMult :=
  rfl

theorem priceFraction_lt (p : Nat) : priceFraction p < 2 ^ 64 := by
  obtain ⟨-, hle⟩ := logFraction_bounds (normalisePrice_lt p) bitPrecision (2 ^ 63) 0
  exact hle.trans_lt (by norm_num)

/-- Between prices of one highest bit the fraction decides, else the integer part. -/
theorem scaledLog_mono : Monotone scaledLog := fun p q h => by
  rw [scaledLog_eq, scaledLog_eq]
  refine mul_le_mul_of_nonneg_right ?_ (by decide)
  have hlog : Nat.log2 p ≤ Nat.log2 q := by
    rw [Nat.log2_eq_log_two, Nat.log2_eq_log_two]
    exact Nat.log_mono_right h
  obtain heq | hlt := hlog.eq_or_lt
  · have hfrac : priceFraction p ≤ priceFraction q := by
      unfold priceFraction
      exact logFraction_mono (normalisePrice_lt q) (heq ▸ normalisePrice_mono h _) (le_refl _) ..
    have := shiftRight_mono hfrac 32
    omega
  · have hp := priceFraction_lt p
    have : priceFraction p >>> 32 < 2 ^ 32 := by omega
    omega

theorem tickLow_eq (p : Nat) : tickLow p = (scaledLog p - cLow) / 2 ^ 64 :=
  Int.fdiv_eq_ediv_of_nonneg _ (by norm_num)

theorem tickHigh_eq (p : Nat) : tickHigh p = (scaledLog p + cHigh) / 2 ^ 64 :=
  Int.fdiv_eq_ediv_of_nonneg _ (by norm_num)

theorem tickLow_mono : Monotone tickLow := fun p q h => by
  rw [tickLow_eq, tickLow_eq]
  exact Int.ediv_le_ediv (by norm_num) (Int.sub_le_sub_right (scaledLog_mono h) _)

theorem tickHigh_mono : Monotone tickHigh := fun p q h => by
  rw [tickHigh_eq, tickHigh_eq]
  exact Int.ediv_le_ediv (by norm_num) (Int.add_le_add_right (scaledLog_mono h) _)

/-- The two corrections together are less than one tick. -/
theorem tickHigh_eq_or_eq_succ (p : Nat) : tickHigh p = tickLow p ∨ tickHigh p = tickLow p + 1 := by
  rw [tickHigh_eq, tickLow_eq]
  unfold cLow cHigh
  omega

/-- Settles O31: the candidates of the valid prices lie between those of the least and the greatest. -/
theorem candidateTicksAdjacent : Obligations.CandidateTicksAdjacent := by
  have hlow : tickLow minSqrtPrice = -443637 := by decide
  have hhigh : tickHigh minSqrtPrice = -443636 := by decide
  have htop : tickHigh (maxSqrtPrice - 1) = 443636 := by decide
  refine ⟨tickHigh_eq_or_eq_succ, fun p hlo hhi => ⟨?_, ?_, ?_⟩, hlow, hhigh⟩
  · exact hlow.symm.le.trans (tickLow_mono hlo)
  · exact hhigh.symm.le.trans (tickHigh_mono hlo)
  · exact (tickHigh_mono (Nat.le_sub_one_of_lt hhi)).trans htop.le

end Sys2Proof.Machine

/-! ## Ticks and the bitmap (43_bitmap.md R211 to R228) -/

namespace Sys2Proof.Machine

/-! ### Starts of the slot domain (R212 to R214) -/

/-- The start of a slot is valid exactly when the slot is in the domain. -/
theorem validStart_mul_span_iff {s : State} (hS : 0 < s.span) {k : Int} :
    s.validStart (k * s.span) ↔ s.kmin ≤ k ∧ k ≤ s.kmax := by
  unfold State.validStart
  rw [slotOf_mul hS, Int.mul_fmod_left]
  exact and_iff_right rfl

/-- Under the bound of log 8 every span fits a tick register. -/
theorem span_le {s : State} (hfit : SpanFits s.cfg) : s.span ≤ 65535 * 32768 := by
  have hts : (s.tspace.toNat : Int) ≤ 65535 := by have := s.tspace.isLt; omega
  have hsize : (s.cfg.arraySize : Int) ≤ 32768 := by exact_mod_cast hfit
  exact mul_le_mul hts hsize (by positivity) (by norm_num)

/-- The start of a slot of the domain fits a tick register: the lowest is `-S`, or less than a span below
`MIN_TICK` where the span is shorter than the tick domain. -/
theorem mul_span_fits {s : State} (hS : 0 < s.span) (hfit : SpanFits s.cfg) {k : Int}
    (hmin : s.kmin ≤ k) (hmax : k ≤ s.kmax) : -2 ^ 31 ≤ k * s.span ∧ k * s.span < 2 ^ 31 := by
  have hspan := span_le hfit
  have hlow : s.kmin * s.span ≤ k * s.span := mul_le_mul_of_nonneg_right hmin hS.le
  have hhigh : k * s.span ≤ s.kmax * s.span := mul_le_mul_of_nonneg_right hmax hS.le
  obtain ⟨-, hbottom⟩ : _ ∧ minTick < (s.kmin + 1) * s.span := slotOf_bounds hS minTick
  obtain ⟨htop, -⟩ : s.kmax * s.span ≤ maxTick ∧ _ := slotOf_bounds hS maxTick
  rw [add_one_mul] at hbottom
  unfold minTick at hbottom
  unfold maxTick at htop
  refine ⟨?_, by omega⟩
  by_cases hlong : 443636 ≤ s.span
  · -- one span covers the negative ticks, so that no slot lies below -1
    have hkmin : -1 ≤ s.kmin := by
      have hmono := slotOf_mono hS (x := (-1) * s.span) (y := minTick) (by unfold minTick; omega)
      rwa [slotOf_mul hS] at hmono
    nlinarith
  · omega

/-- Settles O32: a 20-bit immediate fits a tick register. -/
theorem tliLoadsAnyImmediate : Obligations.TliLoadsAnyImmediate := by
  intro s rd imm hlo hhi
  exact ⟨rfl, _, rfl, retiresTick_write s rd imm (by omega) (by omega)⟩

/-- Settles O33: the tick's slot is in the domain, and its start fits the register. -/
theorem tasRoundsDownOrRaises : Obligations.TasRoundsDownOrRaises := by
  intro s rd ra
  refine ⟨rfl, fun hg hfit ht hlo hhi => ?_, fun hout => ?_⟩
  · have hS := span_pos ht hg.arraySize_pos
    have hin : tickInDomain (s.readT ra) = true := tickInDomain_iff.2 ⟨hlo, hhi⟩
    have hkmin : s.kmin ≤ slotOf s.span (s.readT ra) := slotOf_mono hS hlo
    have hkmax : slotOf s.span (s.readT ra) ≤ s.kmax := slotOf_mono hS hhi
    obtain ⟨hfitlo, hfithi⟩ := mul_span_fits hS hfit hkmin hkmax
    obtain ⟨hle, hlt⟩ := slotOf_bounds hS (s.readT ra)
    refine ⟨_, slotOf s.span (s.readT ra) * s.span, if_pos hin, retiresTick_write s rd _ hfitlo hfithi,
      Dvd.intro_left _ rfl, hle, ?_, (validStart_mul_span_iff hS).2 ⟨hkmin, hkmax⟩⟩
    rwa [add_one_mul] at hlt
  · refine ⟨_, if_neg fun hin => ?_, rfl, rfl⟩
    obtain ⟨hlo, hhi⟩ := tickInDomain_iff.1 hin
    unfold minTick at hlo
    unfold maxTick at hhi
    omega

/-! ### Commands on one slot (R221 to R224, R226) -/

/-- A bitmap command raises cause 6 from an operand that is no valid start index, whatever it would do
with a slot. -/
theorem withSlot_raises {s : State} {ra : TReg} (h : ¬ s.validStart (s.readT ra)) (word : CommandWord)
    (act : Int → StepResult) : ∃ t, withSlot ra word s act = .next t ∧
      RaisesOnly .invalidStartIndex word s t ∧ t.cause = 6 :=
  ⟨_, withSlot_invalid h, rfl, rfl⟩

/-- Settles O34: the bit write replaces one word, by itself with the slot's bit replaced. -/
theorem bmsetAndBmclrWriteOneBit : Obligations.BmsetAndBmclrWriteOneBit := by
  intro s ra b m i hrow
  obtain ⟨hword, hexec⟩ : encode i = m ||| regField ra 16 ∧
      exec i s = withSlot ra (encode i) s fun k => complete (s.bitWrite k b) := by
    rcases hrow with _ | ⟨_, _ | ⟨_, ⟨⟩⟩⟩ <;> exact ⟨rfl, rfl⟩
  rw [hexec]
  exact ⟨hword,
    fun hm hv => ⟨_, _, withSlot_valid hv, retiresWord_bitWrite s hm _ b,
      fun n _ => getLsbD_setWordBit _ _ b n (slotAddress_bit_lt _ _)⟩,
    fun hv => withSlot_raises hv _ _⟩

/-- Settles O36: on a valid start index the command is one write of `F`. -/
theorem bmtstReadsItsBit : Obligations.BmtstReadsItsBit :=
  fun s _ => ⟨rfl, fun hv => ⟨_, withSlot_valid hv, retiresFlags_setF s _⟩,
    fun hv => withSlot_raises hv _ _⟩

/-- The fields of a slot's `BADDR` read back the parts of its address (10_state.md R34). -/
theorem SlotAddress.Fits.toBaddr_fields {c : Config} (hg : Geometry c) {a : SlotAddress}
    (ha : a.Fits c) :
    (a.toBaddr.extractLsb' 0 6).toNat = a.bit ∧ (a.toBaddr.extractLsb' 8 8).toNat = a.word ∧
      (a.toBaddr.extractLsb' 16 8).toNat = a.block := by
  obtain ⟨hcode, hblock, hword, hbit⟩ := ha.fields_lt hg
  simp only [BitVec.extractLsb'_toNat, ha.toBaddr_toNat hg, Nat.shiftRight_eq_div_pow]
  omega

/-- Settles O38: the slot's address fits the fields of `BADDR`, so each reads back. -/
theorem bmaddrPacksTheAddress : Obligations.BmaddrPacksTheAddress := by
  intro s ra
  refine ⟨rfl, fun hg ht hv => ?_, fun hv => withSlot_raises hv _ _⟩
  obtain ⟨-, hmin, hmax⟩ := id hv
  have hfits := slotAddress_fits hg ht hmin hmax
  obtain ⟨hbit, hword, hblock⟩ := hfits.toBaddr_fields hg
  refine ⟨_, withSlot_valid hv, hbit, congrArg BitVec.toNat (hfits.toBaddr_reserved hg), hword, hblock,
    ?_, fun r => by simp, fun f r => by simp, fun a => by simp, by simp [KeepsControl], rfl, rfl⟩
  refine (hfits.toBaddr_region hg).trans ?_
  cases (slotAddress s.cfg (slotOf s.span (s.readT ra))).region <;> rfl

/-! ### The linear view (R215, R219)

It numbers the covered slots in order, and word by word lies where `slotAddress` puts them. -/

/-- The 64-bit words of the linear view, `TOTAL / 64`. -/
def totalWords (c : Config) : Nat := c.primWords + 2 * (c.extBlocks * c.extBlockWords)

/-- A slot the linear view covers: those of the domain are (`domain_covered`). -/
def Covered (c : Config) (k : Int) : Prop :=
  -((c.half + c.sideBits : Nat) : Int) ≤ k ∧ k < (c.half + c.sideBits : Nat)

theorem linIndex_cast {c : Config} {k : Int} (hk : Covered c k) :
    (linIndex c k : Int) = k + c.half + c.sideBits := by
  obtain ⟨hlo, -⟩ := hk
  unfold linIndex
  omega

theorem linIndex_lt {c : Config} {k : Int} (hk : Covered c k) : linIndex c k < c.totalBits := by
  have hcast := linIndex_cast hk
  obtain ⟨-, hhi⟩ := hk
  unfold Config.totalBits Config.half at *
  omega

theorem totalBits_eq (c : Config) : c.totalBits = 64 * totalWords c := by
  unfold Config.totalBits totalWords Config.primBits Config.sideBits Config.extBlockBits
  ring

/-- A position counted from the start of the lowest block: the block it lies in is counted from the top
of the region, its position in the block is not changed. -/
theorem fdiv_fmod_of_add_mul {g : Int} {B n G : Nat} (hB : 0 < B) (hG : (G : Int) = g + n * B) :
    -(Int.fdiv g B) - 1 = n - 1 - (G / B : Nat) ∧ (Int.fmod g B).toNat = G % B := by
  have hB' : (0 : Int) < B := by exact_mod_cast hB
  obtain rfl : g = G - n * B := by omega
  rw [Int.fdiv_eq_ediv_of_nonneg _ hB'.le, Int.fmod_eq_emod_of_nonneg _ hB'.le,
    Int.sub_mul_ediv_right _ _ hB'.ne', Int.sub_mul_emod_self_right]
  push_cast
  exact ⟨by ring, by omega⟩

/-- Word `w` of `n` blocks of `b` words once the blocks are taken from the last down to block 0. -/
def reverseBlocks (n b w : Nat) : Nat := (n - 1 - w / b) * b + w % b

/-- Reversing the blocks undoes itself. -/
theorem reverseBlocks_reverseBlocks {n b w : Nat} (hw : w < n * b) :
    reverseBlocks n b (reverseBlocks n b w) = w := by
  have hb : 0 < b := Nat.pos_of_mul_pos_left (Nat.zero_lt_of_lt hw)
  have hr := Nat.mod_lt w hb
  have hq : w / b < n := Nat.div_lt_of_lt_mul (Nat.mul_comm n b ▸ hw)
  have hw : w / b * b + w % b = w := Nat.div_add_mod' w b
  unfold reverseBlocks
  generalize w / b = q, w % b = r at *
  have hdiv : ((n - 1 - q) * b + r) / b = n - 1 - q := by
    rw [Nat.add_comm, Nat.add_mul_div_right _ _ hb, Nat.div_eq_of_lt hr, Nat.zero_add]
  rw [hdiv, Nat.mul_add_mod_self_right, Nat.mod_eq_of_lt hr, show n - 1 - (n - 1 - q) = q by omega, hw]

/-- The words of the linear view that lie in `EXTN`, from its last block down. -/
theorem linOffset_extn {c : Config} {w : Nat} (hw : w < c.extBlocks * c.extBlockWords) :
    linOffset c w = 0x4000 + 8 * reverseBlocks c.extBlocks c.extBlockWords w :=
  if_pos hw

/-- The words of the linear view that lie in `PRIM`. -/
theorem linOffset_prim {c : Config} {w : Nat} (hw : w < c.primWords) :
    linOffset c (c.extBlocks * c.extBlockWords + w) = 0x1000 + 8 * w := by
  unfold linOffset
  dsimp only
  rw [if_neg (by omega), if_pos (by omega), Nat.add_sub_cancel_left]

/-- The words of the linear view that lie in `EXTP`. -/
theorem linOffset_extp (c : Config) (w : Nat) :
    linOffset c (c.extBlocks * c.extBlockWords + c.primWords + w) = 0x2000 + 8 * w := by
  unfold linOffset
  dsimp only
  rw [if_neg (by omega), if_neg (by omega), Nat.sub_sub, Nat.add_sub_cancel_left]

/-- A covered slot's word and bit are the same by its address and in the linear view. -/
theorem slotAddress_linear {c : Config} (hg : Geometry c) {k : Int} (hk : Covered c k) :
    (slotAddress c k).offset c = linOffset c (linIndex c k / 64) ∧
      (slotAddress c k).bit = linIndex c k % 64 := by
  have hG := linIndex_cast hk
  have hbits : 0 < c.extBlockBits := Nat.mul_pos (by decide) hg.blockWords_pos
  have hside : c.sideBits = 64 * (c.extBlocks * c.extBlockWords) := by
    unfold Config.sideBits Config.extBlockBits; ring
  generalize linIndex c k = G at hG ⊢
  unfold slotAddress
  dsimp only
  split_ifs with hprim hpos
  · -- the slot is in `PRIM`
    obtain rfl : G = 64 * (c.extBlocks * c.extBlockWords) + (k + c.half).toNat := by omega
    unfold Config.primBits at hprim
    rw [Nat.mul_add_div (by decide), linOffset_prim (by omega), Nat.mul_add_mod]
    exact ⟨rfl, rfl⟩
  · -- the slot is above `PRIM`, in `EXTP`
    obtain ⟨e, he⟩ : ∃ e, e = (k + c.half - c.primBits).toNat := ⟨_, rfl⟩
    obtain rfl : G = 64 * (c.extBlocks * c.extBlockWords + c.primWords) + e := by
      unfold Config.primBits at *; omega
    rw [← he, Nat.mul_add_div (by decide), linOffset_extp, Nat.mul_add_mod]
    refine ⟨?_, Nat.mod_mul_right_mod ..⟩
    show 0x2000 + 8 * (e / (64 * c.extBlockWords) * c.extBlockWords + e % (64 * c.extBlockWords) / 64) = _
    rw [Nat.mod_mul_right_div_self, ← Nat.div_div_eq_div_mul, Nat.div_add_mod']
  · -- the slot is below `PRIM`, in `EXTN`
    obtain ⟨hblock, hpos⟩ := fdiv_fmod_of_add_mul (g := k + c.half) (n := c.extBlocks) (G := G) hbits
      (by rw [hG]; unfold Config.sideBits; push_cast; ring)
    rw [linOffset_extn (by omega), hpos]
    refine ⟨?_, Nat.mod_mul_right_mod ..⟩
    show 0x4000 + 8 * ((-(Int.fdiv (k + c.half) c.extBlockBits) - 1).toNat * c.extBlockWords +
      G % (64 * c.extBlockWords) / 64) = _
    rw [Nat.mod_mul_right_div_self, reverseBlocks, Nat.div_div_eq_div_mul, hblock]
    congr 4
    unfold Config.extBlockBits
    omega

/-- Where a word of the linear view lies: in `EXTN`, in `PRIM` or in `EXTP`. -/
theorem linOffset_cases {c : Config} {w : Nat} (hw : w < totalWords c) :
    (w < c.extBlocks * c.extBlockWords ∧
        linOffset c w = 0x4000 + 8 * reverseBlocks c.extBlocks c.extBlockWords w) ∨
      (∃ p < c.primWords, w = c.extBlocks * c.extBlockWords + p ∧ linOffset c w = 0x1000 + 8 * p) ∨
      ∃ p < c.extBlocks * c.extBlockWords,
        w = c.extBlocks * c.extBlockWords + c.primWords + p ∧ linOffset c w = 0x2000 + 8 * p := by
  unfold totalWords at hw
  by_cases hextn : w < c.extBlocks * c.extBlockWords
  · exact .inl ⟨hextn, linOffset_extn hextn⟩
  obtain ⟨p, rfl⟩ := Nat.exists_eq_add_of_le (not_lt.1 hextn)
  by_cases hprim : p < c.primWords
  · exact .inr (.inl ⟨p, hprim, rfl, linOffset_prim hprim⟩)
  obtain ⟨q, rfl⟩ := Nat.exists_eq_add_of_le (not_lt.1 hprim)
  exact .inr (.inr ⟨q, by omega, (Nat.add_assoc ..).symm, Nat.add_assoc .. ▸ linOffset_extp c q⟩)

/-- Different words of the linear view lie at different offsets: the three regions do not overlap. -/
theorem linOffset_inj {c : Config} (hg : Geometry c) {w w' : Nat} (hw : w < totalWords c)
    (hw' : w' < totalWords c) (h : linOffset c w = linOffset c w') : w = w' := by
  have hprim := hg.prim_le
  have hside := hg.side_le
  rcases linOffset_cases hw with ⟨hn, ho⟩ | ⟨p, hp, rfl, ho⟩ | ⟨p, hp, rfl, ho⟩ <;>
    rcases linOffset_cases hw' with ⟨hn', ho'⟩ | ⟨p', hp', rfl, ho'⟩ | ⟨p', hp', rfl, ho'⟩
  case inl.inl =>
    -- both in `EXTN`: the reversed words are the same, so the words are
    rw [← reverseBlocks_reverseBlocks hn, ← reverseBlocks_reverseBlocks hn']
    congr 1
    omega
  all_goals omega

/-- A covered slot's bit is the bit of the linear view at its index. -/
theorem bitRead_eq_linBit {s : State} (hg : Geometry s.cfg) {k : Int} (hk : Covered s.cfg k) :
    s.bitRead k = s.linBit (linIndex s.cfg k) := by
  obtain ⟨hoffset, hbit⟩ := slotAddress_linear hg hk
  rw [State.bitRead, State.slotOffset, hoffset, hbit]
  rfl

/-- Settles O39: the domain is covered, and a covered slot is where the linear view has it. -/
theorem linearViewShowsEverySlot : Obligations.LinearViewShowsEverySlot := by
  intro s k hg ht hmin hmax
  have hk : Covered s.cfg k := domain_covered hg ht hmin hmax
  exact ⟨linIndex_lt hk, bitRead_eq_linBit hg hk⟩

/-- Covered slots with one word and one bit are one slot. -/
theorem eq_of_slot_offset_bit {c : Config} (hg : Geometry c) {k k' : Int} (hk : Covered c k)
    (hk' : Covered c k') (hoffset : (slotAddress c k).offset c = (slotAddress c k').offset c)
    (hbit : (slotAddress c k).bit = (slotAddress c k').bit) : k = k' := by
  have hlt := linIndex_lt hk
  have hlt' := linIndex_lt hk'
  rw [totalBits_eq] at hlt hlt'
  have hcast := linIndex_cast hk
  have hcast' := linIndex_cast hk'
  obtain ⟨hword, hlow⟩ := slotAddress_linear hg hk
  obtain ⟨hword', hlow'⟩ := slotAddress_linear hg hk'
  rw [hword, hword'] at hoffset
  have hsame := linOffset_inj hg (by omega) (by omega) hoffset
  omega

/-- A bit read after a bit write: the bit written, or the old one. -/
theorem bitRead_bitWrite {s : State} (hg : Geometry s.cfg) (hm : s.mem.wf) {k k' : Int}
    (hk : Covered s.cfg k) (hk' : Covered s.cfg k') (b : Bool) :
    (s.bitWrite k' b).bitRead k = if k = k' then b else s.bitRead k := by
  unfold State.bitRead
  rw [bitWrite_mem, show (s.bitWrite k' b).slotOffset k = s.slotOffset k from rfl, bitWrite_cfg]
  by_cases hoffset : s.slotOffset k = s.slotOffset k'
  · rw [hoffset, readWord_writeWord_same hm, getLsbD_setWordBit _ _ _ _ (slotAddress_bit_lt ..)]
    refine if_congr ⟨fun hbit => eq_of_slot_offset_bit hg hk hk' hoffset hbit, ?_⟩ rfl rfl
    rintro rfl
    rfl
  · have hal := SlotAddress.offset_aligned s.cfg (slotAddress s.cfg k)
    have hal' := SlotAddress.offset_aligned s.cfg (slotAddress s.cfg k')
    unfold State.slotOffset at *
    rw [readWord_writeWord_other hm _ _ _ (by omega), if_neg]
    rintro rfl
    exact hoffset rfl

/-- Settles O35: the linear view has one position for each slot. -/
theorem oneBitPerSlot : Obligations.OneBitPerSlot := by
  intro s k k' b hg ht hm hmin hmax hmin' hmax'
  have hk : Covered s.cfg k := domain_covered hg ht hmin hmax
  have hk' : Covered s.cfg k' := domain_covered hg ht hmin' hmax'
  refine ⟨fun h => eq_of_slot_offset_bit hg hk hk' ?_ ?_, bitRead_bitWrite hg hm hk hk' b⟩ <;> rw [h]

/-! ### Nearest elements

The search, the scan and the two bit finders each answer the first element of a kind in some order. -/

/-- The answer is the first element with `p` in the order `r`, or there is none with `p`. -/
def Finds {α : Type} (r : α → α → Prop) (p : α → Prop) : Option α → Prop
  | none => ∀ y, ¬ p y
  | some x => p x ∧ ∀ y, p y → r x y

namespace Finds

variable {α β : Type} {r : α → α → Prop} {p q : α → Prop} {o o' : Option α}

/-- The order and the elements determine the answer. -/
theorem unique (hr : ∀ x y, r x y → r y x → x = y) (h : Finds r p o) (h' : Finds r p o') : o = o' := by
  cases o with
  | none =>
    cases o' with
    | none => rfl
    | some y => exact absurd h'.1 (h y)
  | some x =>
    cases o' with
    | none => exact absurd h.1 (h' x)
    | some y => exact congrArg some (hr x y (h.2 y h'.1) (h'.2 x h.1))

theorem congr (hpq : ∀ y, p y ↔ q y) (h : Finds r p o) : Finds r q o := by
  rwa [← funext fun y => propext (hpq y)]

/-- A map that keeps the order and is onto the new elements takes answer to answer. -/
theorem map {r' : β → β → Prop} {p' : β → Prop} {f : α → β} (hr : ∀ x y, r x y → r' (f x) (f y))
    (hp : ∀ x, p x → p' (f x)) (honto : ∀ y, p' y → ∃ x, p x ∧ f x = y) (h : Finds r p o) :
    Finds r' p' (o.map f) := by
  cases o with
  | none =>
    intro y hy
    obtain ⟨x, hx, -⟩ := honto y hy
    exact h x hx
  | some x =>
    refine ⟨hp x h.1, fun y hy => ?_⟩
    obtain ⟨z, hz, rfl⟩ := honto y hy
    exact hr x z (h.2 z hz)

/-- Where there is an element, the default of `getD` is not taken. -/
theorem getD (h : Finds r p o) {y : α} (hy : p y) (d : α) : Finds r p (some (o.getD d)) := by
  cases o with
  | none => exact absurd hy (h y)
  | some x => exact h

/-- `find?` on a list in the order `r`. -/
theorem find? {l : List α} (hl : l.Pairwise r) (hrefl : ∀ x, r x x) (f : α → Bool) :
    Finds r (fun x => x ∈ l ∧ f x = true) (l.find? f) := by
  induction l with
  | nil => exact fun y hy => List.not_mem_nil hy.1
  | cons a l ih =>
    obtain ⟨ha, hl⟩ := List.pairwise_cons.1 hl
    by_cases hf : f a = true
    · rw [List.find?_cons_of_pos hf]
      refine ⟨⟨List.mem_cons_self, hf⟩, fun y hy => ?_⟩
      rcases List.mem_cons.1 hy.1 with rfl | hy
      · exact hrefl _
      · exact ha y hy
    · rw [List.find?_cons_of_neg hf]
      refine (ih hl).congr fun y => ?_
      rw [List.mem_cons]
      refine ⟨fun ⟨hy, hfy⟩ => ⟨.inr hy, hfy⟩, fun ⟨hy, hfy⟩ => ⟨hy.resolve_left ?_, hfy⟩⟩
      rintro rfl
      exact hf hfy

end Finds

/-! ### The directional search (R225) -/

theorem nearer_antisymm {dir : Direction} (k k' : Int) (h : nearer dir k k') (h' : nearer dir k' k) :
    k = k' := by
  cases dir <;> exact Int.le_antisymm ‹_› ‹_›

/-- Slot `k` lies on the searched side of `k0`, `k0` itself if the search is inclusive. -/
def OnSide (dir : Direction) (incl : Bool) (k0 k : Int) : Prop :=
  k0 < k ∧ dir = .up ∨ k < k0 ∧ dir = .down ∨ k = k0 ∧ incl = true

theorem candidate_iff_onSide {s : State} {dir : Direction} {incl : Bool} {k0 k : Int} :
    s.candidate dir incl k0 k ↔
      s.kmin ≤ k ∧ k ≤ s.kmax ∧ s.bitRead k = true ∧ OnSide dir incl k0 k := by
  refine and_congr_right' (and_congr_right' (and_congr_right' ?_))
  cases dir with
  | up => cases incl <;> simp [OnSide, le_iff_lt_or_eq, eq_comm]
  | down => cases incl <;> simp [OnSide, le_iff_lt_or_eq]

theorem onSide_up_iff {incl : Bool} {k0 k : Int} :
    OnSide .up incl k0 k ↔ searchStart .up incl k0 ≤ k := by
  cases incl with
  | false => simp [OnSide, searchStart]
  | true => simp [OnSide, searchStart, le_iff_lt_or_eq, eq_comm]

theorem onSide_down_iff {incl : Bool} {k0 k : Int} :
    OnSide .down incl k0 k ↔ k ≤ searchStart .down incl k0 := by
  cases incl with
  | false => simp [OnSide, searchStart]
  | true => simp [OnSide, searchStart, le_iff_lt_or_eq]

theorem le_searchStart_up (incl : Bool) (k0 : Int) : k0 ≤ searchStart .up incl k0 := by
  cases incl <;> simp [searchStart]

theorem searchStart_down_le (incl : Bool) (k0 : Int) : searchStart .down incl k0 ≤ k0 := by
  cases incl <;> simp [searchStart]

/-- The candidates of an upward search are the set bits from the first candidate to `KMAX`. -/
theorem candidate_up_iff {s : State} {incl : Bool} {k0 k : Int} (hmin : s.kmin ≤ k0) :
    s.candidate .up incl k0 k ↔
      searchStart .up incl k0 ≤ k ∧ k ≤ s.kmax ∧ s.bitRead k = true := by
  have hstart := le_searchStart_up incl k0
  rw [candidate_iff_onSide, onSide_up_iff]
  exact ⟨fun ⟨_, hmax, hb, hside⟩ => ⟨hside, hmax, hb⟩,
    fun ⟨hside, hmax, hb⟩ => ⟨by omega, hmax, hb, hside⟩⟩

/-- The candidates of a downward search are the set bits from `KMIN` to the first candidate. -/
theorem candidate_down_iff {s : State} {incl : Bool} {k0 k : Int} (hmax : k0 ≤ s.kmax) :
    s.candidate .down incl k0 k ↔
      s.kmin ≤ k ∧ k ≤ searchStart .down incl k0 ∧ s.bitRead k = true := by
  have hstart := searchStart_down_le incl k0
  rw [candidate_iff_onSide, onSide_down_iff]
  exact ⟨fun ⟨hmin, _, hb, hside⟩ => ⟨hmin, hside, hb⟩,
    fun ⟨hmin, hside, hb⟩ => ⟨hmin, by omega, hb, hside⟩⟩

theorem searchUp_finds (s : State) (n : Nat) (k : Int) :
    Finds (nearer .up) (fun y => k ≤ y ∧ y < k + n ∧ s.bitRead y = true) (s.searchUp n k) := by
  cases h : s.searchUp n k with
  | none =>
    rintro y ⟨hlo, hhi, hb⟩
    simp [searchUp_eq_none h y hlo hhi] at hb
  | some x =>
    obtain ⟨hlo, hhi, hx, hbefore⟩ := searchUp_eq_some h
    refine ⟨⟨hlo, hhi, hx⟩, fun y ⟨hy, _, hb⟩ => le_of_not_gt fun hlt => ?_⟩
    simp [hbefore y hy hlt] at hb

theorem searchDown_finds (s : State) (n : Nat) (k : Int) :
    Finds (nearer .down) (fun y => k - n < y ∧ y ≤ k ∧ s.bitRead y = true) (s.searchDown n k) := by
  cases h : s.searchDown n k with
  | none =>
    rintro y ⟨hlo, hhi, hb⟩
    simp [searchDown_eq_none h y hhi hlo] at hb
  | some x =>
    obtain ⟨hhi, hlo, hx, hbefore⟩ := searchDown_eq_some h
    refine ⟨⟨hlo, hhi, hx⟩, fun y ⟨_, hy, hb⟩ => le_of_not_gt fun hlt => ?_⟩
    simp [hbefore y hy hlt] at hb

/-- The search answers the nearest candidate. -/
theorem search_finds {s : State} {k0 : Int} (hmin : s.kmin ≤ k0) (hmax : k0 ≤ s.kmax)
    (dir : Direction) (incl : Bool) :
    Finds (nearer dir) (s.candidate dir incl k0) (s.search dir incl k0) := by
  cases dir with
  | up =>
    refine (searchUp_finds ..).congr fun y => ?_
    rw [candidate_up_iff hmin]
    exact and_congr_right fun hy => and_congr_left' (by omega)
  | down =>
    refine (searchDown_finds ..).congr fun y => ?_
    rw [candidate_down_iff hmax, ← and_assoc, ← and_assoc]
    exact and_congr_left' (by omega)

theorem execBmnext_found {s : State} {ra : TReg} {dir : Direction} {incl : Bool} {k : Int}
    (hv : s.validStart (s.readT ra)) (hk : s.candidate dir incl (slotOf s.span (s.readT ra)) k)
    (hnearest : ∀ k', s.candidate dir incl (slotOf s.span (s.readT ra)) k' → nearer dir k k')
    (rd : TReg) :
    execBmnext rd ra dir incl s = .next ((s.writeT rd (k * s.span)).setF true).retire := by
  obtain ⟨-, hmin, hmax⟩ := id hv
  have hsearch : s.search dir incl (slotOf s.span (s.readT ra)) = some k :=
    (search_finds hmin hmax dir incl).unique nearer_antisymm ⟨hk, hnearest⟩
  rw [execBmnext, withSlot_valid hv, hsearch]
  rfl

theorem execBmnext_none {s : State} {ra : TReg} {dir : Direction} {incl : Bool}
    (hv : s.validStart (s.readT ra))
    (hnone : ∀ k, ¬ s.candidate dir incl (slotOf s.span (s.readT ra)) k) (rd : TReg) :
    execBmnext rd ra dir incl s = .next (s.setF false).retire := by
  obtain ⟨-, hmin, hmax⟩ := id hv
  have hsearch : s.search dir incl (slotOf s.span (s.readT ra)) = none :=
    (search_finds hmin hmax dir incl).unique nearer_antisymm (o' := none) hnone
  rw [execBmnext, withSlot_valid hv, hsearch]
  rfl

/-- Settles O37: the search answers the nearest candidate, whose start fits the register. -/
theorem bmnextFindsTheNearest : Obligations.BmnextFindsTheNearest := by
  intro s rd ra dir incl
  refine ⟨rfl, fun k hg hfit ht hv hk hnearest => ⟨_, execBmnext_found hv hk hnearest rd, ?_⟩,
    fun hv hnone => ⟨_, execBmnext_none hv hnone rd, retiresFlags_setF s false⟩,
    fun hv => withSlot_raises hv _ _⟩
  obtain ⟨hmin, hmax, -, -⟩ := candidate_iff_onSide.1 hk
  obtain ⟨hlo, hhi⟩ := mul_span_fits (span_pos ht hg.arraySize_pos) hfit hmin hmax
  exact retiresTick_write_setF s rd _ true hlo hhi

/-! ### Set, found, cleared (R228) -/

theorem onSide_mul_iff {S : Int} (hS : 0 < S) {dir : Direction} {incl : Bool} {k0 k : Int} :
    OnSide dir incl (k0 * S) (k * S) ↔ OnSide dir incl k0 k := by
  unfold OnSide
  rw [mul_lt_mul_iff_left₀ hS, mul_lt_mul_iff_left₀ hS, mul_left_inj' hS.ne']

/-- A block at work in which no bit of the domain is set but slot `i`'s, if that is. -/
structure OnlyBit (s : State) (i : Int) : Prop where
  geometry : Geometry s.cfg
  tspace_pos : 1 ≤ s.tspace.toNat
  memory : s.mem.wf
  kmin_le : s.kmin ≤ i
  le_kmax : i ≤ s.kmax
  other_clear : ∀ k, s.kmin ≤ k → k ≤ s.kmax → k ≠ i → s.bitRead k = false

namespace OnlyBit

variable {s : State} {i : Int}

/-- The bits of the domain after slot `i`'s bit is written. -/
theorem bitRead_bitWrite (h : OnlyBit s i) (b : Bool) {k : Int} (hmin : s.kmin ≤ k)
    (hmax : k ≤ s.kmax) : (s.bitWrite i b).bitRead k = true ↔ k = i ∧ b = true := by
  rw [Machine.bitRead_bitWrite h.geometry h.memory
    (domain_covered h.geometry h.tspace_pos hmin hmax)
    (domain_covered h.geometry h.tspace_pos h.kmin_le h.le_kmax)]
  by_cases hki : k = i
  · simp [hki]
  · simp [hki, h.other_clear k hmin hmax hki]

/-- Writing slot `i`'s bit sets no other. -/
theorem bitWrite (h : OnlyBit s i) (b : Bool) : OnlyBit (s.bitWrite i b).retire i :=
  { h with
    memory := writeWord_wf h.memory _ _
    other_clear := fun _ hmin hmax hne =>
      Bool.eq_false_iff.2 fun hb => hne ((h.bitRead_bitWrite b hmin hmax).1 hb).1 }

/-- The only candidate after slot `i`'s bit is written is `i`, if the bit was set and `i` lies on the
searched side. -/
theorem candidate_bitWrite_iff (h : OnlyBit s i) {b : Bool} {dir : Direction} {incl : Bool}
    {k0 k : Int} :
    (s.bitWrite i b).retire.candidate dir incl k0 k ↔ k = i ∧ b = true ∧ OnSide dir incl k0 i := by
  rw [candidate_iff_onSide]
  constructor
  · rintro ⟨hmin, hmax, hbit, hside⟩
    obtain ⟨rfl, hb⟩ := (h.bitRead_bitWrite b hmin hmax).1 hbit
    exact ⟨rfl, hb, hside⟩
  · rintro ⟨rfl, hb, hside⟩
    exact ⟨h.kmin_le, h.le_kmax, (h.bitRead_bitWrite b h.kmin_le h.le_kmax).2 ⟨rfl, hb⟩, hside⟩

/-- `BMNEXT` after slot `i`'s bit is written finds `i` if the bit was set and `i` lies on the searched
side, and nothing otherwise. -/
theorem bmnext_bitWrite (h : OnlyBit s i) (b : Bool) {ra rb : TReg} (ha : i * s.span = s.readT ra)
    (hvb : s.validStart (s.readT rb)) (rd : TReg) (dir : Direction) (incl : Bool) :
    ∃ u, exec (.bmnext rd rb dir incl) (s.bitWrite i b).retire = .next u ∧
      (b = true ∧ OnSide dir incl (s.readT rb) (s.readT ra) →
        u.flags.f = true ∧ u.readT rd = s.readT ra) ∧
      (¬ (b = true ∧ OnSide dir incl (s.readT rb) (s.readT ra)) →
        u.flags.f = false ∧ u.readT rd = s.readT rd) := by
  have hS := span_pos h.tspace_pos h.geometry.arraySize_pos
  have hv : (s.bitWrite i b).retire.validStart ((s.bitWrite i b).retire.readT rb) := hvb
  have hrb : slotOf s.span (s.readT rb) * s.span = s.readT rb := slotOf_mul_of_aligned hvb.1
  have hside : OnSide dir incl (s.readT rb) (s.readT ra) ↔
      OnSide dir incl (slotOf s.span (s.readT rb)) i := by
    rw [← ha, ← hrb, slotOf_mul hS, onSide_mul_iff hS]
  rw [hside]
  by_cases hfound : b = true ∧ OnSide dir incl (slotOf s.span (s.readT rb)) i
  · have hi := h.candidate_bitWrite_iff.2 ⟨rfl, hfound⟩
    refine ⟨_, execBmnext_found hv hi (fun k hk => ?_) rd, fun _ => ⟨rfl, ?_⟩, absurd hfound⟩
    · obtain ⟨rfl, -⟩ := h.candidate_bitWrite_iff.1 hk
      cases dir <;> exact le_refl k
    · obtain ⟨hlo, hhi⟩ := readT_range s ra
      rw [← ha] at hlo hhi ⊢
      exact readT_writeT_of_fits (s.bitWrite i b).retire rd (i * s.span) hlo hhi
  · refine ⟨_, execBmnext_none hv (fun k hk => ?_) rd, fun hb => absurd hb hfound, fun _ => ⟨rfl, rfl⟩⟩
    exact hfound (h.candidate_bitWrite_iff.1 hk).2

end OnlyBit

/-- Settles O41: slot `i` is the only candidate while its bit is set, and there is none once it is
cleared. -/
theorem setThenFoundClearedThenNot : Obligations.SetThenFoundClearedThenNot := by
  intro s rd ra rb dir incl hg ht hm hclear hva hvb
  obtain ⟨haligned, hmin, hmax⟩ := id hva
  have hra : slotOf s.span (s.readT ra) * s.span = s.readT ra := slotOf_mul_of_aligned haligned
  have hs : OnlyBit s (slotOf s.span (s.readT ra)) :=
    ⟨hg, ht, hm, hmin, hmax, fun k hkmin hkmax _ => hclear k hkmin hkmax⟩
  obtain ⟨u, hu, hfound, hnone⟩ := hs.bmnext_bitWrite true hra hvb rd dir incl
  have hset := hs.bitWrite true
  obtain ⟨w, hw, -, hgone⟩ := hset.bmnext_bitWrite false hra hvb rd dir incl
  obtain ⟨hf, hrd⟩ := hgone fun h => Bool.false_ne_true h.1
  exact ⟨_, u, withSlot_valid hva, hu, fun h => hfound ⟨rfl, h⟩, fun h => hnone fun h' => h h'.2,
    _, w, withSlot_valid hva, hw, hf, hrd⟩

/-! ### The word scan (R227)

Each word of the scan is masked to the searched positions, so that its first set bit is the first
position sought. -/

/-- Bit `i` of word `w` of the linear view. -/
theorem linBit_word (s : State) (w : Nat) {i : Nat} (hi : i < 64) :
    s.linBit (64 * w + i) = (s.linWord w).getLsbD i := by
  unfold State.linBit
  rw [show (64 * w + i) / 64 = w by omega, show (64 * w + i) % 64 = i by omega]

theorem getLsbD_clearBelow (x : PortWord) (n i : Nat) :
    (clearBelow x n).getLsbD i = true ↔ n ≤ i ∧ x.getLsbD i = true := by
  have hlt : x.getLsbD i = true → i < 64 := BitVec.lt_of_getLsbD
  simp only [clearBelow, BitVec.getLsbD_and, BitVec.getLsbD_shiftLeft, BitVec.getLsbD_allOnes,
    Bool.and_eq_true, Bool.not_eq_true', decide_eq_true_eq, decide_eq_false_iff_not]
  constructor
  · rintro ⟨hb, ⟨-, hn⟩, -⟩
    exact ⟨not_lt.1 hn, hb⟩
  · rintro ⟨hn, hb⟩
    have := hlt hb
    exact ⟨hb, ⟨this, not_lt.2 hn⟩, by omega⟩

theorem getLsbD_clearAbove (x : PortWord) (n i : Nat) :
    (clearAbove x n).getLsbD i = true ↔ i ≤ n ∧ x.getLsbD i = true := by
  have hlt : x.getLsbD i = true → i < 64 := BitVec.lt_of_getLsbD
  simp only [clearAbove, BitVec.getLsbD_and, BitVec.getLsbD_not, BitVec.getLsbD_shiftLeft,
    BitVec.getLsbD_allOnes, Bool.and_eq_true, Bool.not_eq_true', decide_eq_true_eq,
    Bool.and_eq_false_iff, decide_eq_false_iff_not, Bool.not_eq_false']
  constructor
  · rintro ⟨hb, hi, hn⟩
    exact ⟨by omega, hb⟩
  · rintro ⟨hn, hb⟩
    have := hlt hb
    exact ⟨hb, this, by omega⟩

/-- The word `x` stands for word `w` of the linear view and shows the positions with `p`. -/
def WordShows (p : Nat → Prop) (w : Nat) (x : PortWord) : Prop :=
  ∀ i, x.getLsbD i = true ↔ i < 64 ∧ p (64 * w + i)

theorem linWord_shows (s : State) (w : Nat) :
    WordShows (fun g => s.linBit g = true) w (s.linWord w) := fun _ =>
  ⟨fun h => ⟨BitVec.lt_of_getLsbD h, (linBit_word s w (BitVec.lt_of_getLsbD h)).trans h⟩,
    fun ⟨hi, h⟩ => (linBit_word s w hi).symm.trans h⟩

namespace WordShows

variable {p : Nat → Prop} {w : Nat} {x : PortWord}

/-- A position of the word is read from its bit. -/
theorem getLsbD_iff (h : WordShows p w x) {g : Nat} (hg : g / 64 = w) :
    x.getLsbD (g % 64) = true ↔ p g := by
  subst hg
  rw [h, Nat.div_add_mod]
  exact and_iff_right (Nat.mod_lt _ (by decide))

/-- A word is zero when it shows nothing. -/
theorem eq_zero_iff (h : WordShows p w x) : x = 0 ↔ ∀ g, g / 64 = w → ¬ p g := by
  constructor
  · rintro rfl g hg hp
    exact absurd ((h.getLsbD_iff hg).2 hp) (by simp)
  · intro hp
    refine BitVec.eq_of_getLsbD_eq fun i hi => ?_
    rw [Bool.eq_false_iff.2 fun hx => hp _ (by omega) ((h i).1 hx).2]
    simp

/-- What holds of every position of the word may be added. -/
theorem restrict (h : WordShows p w x) {q : Nat → Prop} (hq : ∀ g, g / 64 = w → q g) :
    WordShows (fun g => q g ∧ p g) w x := fun i =>
  (h i).trans (and_congr_right fun hi => (and_iff_right (hq _ (by omega))).symm)

/-- Masking the word of `n` cuts what is below `n`; the words above it need no mask. -/
theorem clearBelow (h : WordShows p w x) {n : Nat} (hn : n / 64 ≤ w) :
    WordShows (fun g => n ≤ g ∧ p g) w (if w = n / 64 then Machine.clearBelow x (n % 64) else x) := by
  intro i
  split_ifs with hw
  · rw [getLsbD_clearBelow, h]
    constructor <;> rintro ⟨h1, h2, h3⟩ <;> exact ⟨by omega, by omega, h3⟩
  · exact h.restrict (q := (n ≤ ·)) (fun g hg => by omega) i

/-- Masking the word of `n` cuts what is above `n`; the words below it need no mask. -/
theorem clearAbove (h : WordShows p w x) {n : Nat} (hn : w ≤ n / 64) :
    WordShows (fun g => g ≤ n ∧ p g) w (if w = n / 64 then Machine.clearAbove x (n % 64) else x) := by
  intro i
  split_ifs with hw
  · rw [getLsbD_clearAbove, h]
    constructor <;> rintro ⟨h1, h2, h3⟩ <;> exact ⟨by omega, by omega, h3⟩
  · exact h.restrict (q := (· ≤ n)) (fun g hg => by omega) i

/-- The first set bit of a nonzero word, in an order `r` of the positions in which the other words come
later, is the first position. -/
theorem findBit_finds (h : WordShows p w x) (hx : x ≠ 0) {r : Nat → Nat → Prop} {l : List Nat}
    (hl : l.Pairwise r) (hmem : ∀ i, i ∈ l ↔ i < 64) (hrefl : ∀ i, r i i)
    (hadd : ∀ i j, r i j → r (64 * w + i) (64 * w + j))
    (hlater : ∀ g g', g / 64 = w → g' / 64 ≠ w → p g' → r g g') :
    Finds r p (some (64 * w + (l.find? fun i => x.getLsbD i).getD 64)) := by
  obtain ⟨g, hg, hpg⟩ : ∃ g, g / 64 = w ∧ p g := by
    by_contra hnone
    exact hx (h.eq_zero_iff.2 fun g hg hpg => hnone ⟨g, hg, hpg⟩)
  have hin : ∀ g : Nat, g % 64 ∈ l := fun g => (hmem _).2 (Nat.mod_lt g (by decide))
  obtain ⟨⟨-, hbit⟩, hfirst⟩ := (Finds.find? hl hrefl fun i => x.getLsbD i).getD
    ⟨hin g, (h.getLsbD_iff hg).2 hpg⟩ 64
  obtain ⟨hlt, hp⟩ := (h _).1 hbit
  refine ⟨hp, fun g' hpg' => ?_⟩
  by_cases hw : g' / 64 = w
  · have hle := hadd _ _ (hfirst (g' % 64) ⟨hin g', (h.getLsbD_iff hw).2 hpg'⟩)
    rwa [← hw, Nat.div_add_mod, hw] at hle
  · exact hlater _ _ (by omega) hw hpg'

theorem lowestBit_finds (h : WordShows p w x) (hx : x ≠ 0) (hlow : ∀ g, p g → w ≤ g / 64) :
    Finds (· ≤ ·) p (some (64 * w + lowestBit x)) :=
  h.findBit_finds hx (List.pairwise_lt_range.imp le_of_lt) (fun _ => List.mem_range) le_refl
    (fun _ _ hij => Nat.add_le_add_left hij _)
    (fun g g' hg hg' hp => by have := hlow g' hp; omega)

theorem highestBit_finds (h : WordShows p w x) (hx : x ≠ 0) (hhigh : ∀ g, p g → g / 64 ≤ w) :
    Finds (· ≥ ·) p (some (64 * w + highestBit x)) :=
  h.findBit_finds hx (List.pairwise_reverse.2 (List.pairwise_lt_range.imp le_of_lt))
    (fun _ => List.mem_reverse.trans List.mem_range) le_refl
    (fun _ _ hij => Nat.add_le_add_left hij _)
    (fun g g' hg hg' hp => by have := hhigh g' hp; omega)

end WordShows

/-- The upward scan from a word that shows the set bits from `g` up. -/
theorem scanUpFrom_finds {s : State} {gmax n w g : Nat} {x : PortWord} (hg : g / 64 = w)
    (hw : w ≤ gmax / 64) (hn : gmax / 64 < w + n)
    (hx : WordShows (fun y => g ≤ y ∧ s.linBit y = true) w x) :
    Finds (· ≤ ·) (fun y => y ≤ gmax ∧ g ≤ y ∧ s.linBit y = true) (s.scanUpFrom gmax n w x) := by
  induction n generalizing w g x with
  | zero => omega
  | succ n ih =>
    have hmask := hx.clearAbove hw
    unfold State.scanUpFrom
    dsimp only
    generalize (if w = gmax / 64 then clearAbove x (gmax % 64) else x) = z at hmask ⊢
    split_ifs with hz hlast
    · -- the word shows a bit sought
      exact hmask.lowestBit_finds hz fun y ⟨_, hy, _⟩ => by omega
    · -- the last word shows none
      intro y hy
      obtain ⟨hmax, hmin, -⟩ := id hy
      exact hmask.eq_zero_iff.1 (not_not.1 hz) y (by omega) hy
    · -- the scan goes on with the next word
      have hnext := (linWord_shows s (w + 1)).restrict (q := (64 * (w + 1) ≤ ·)) fun y hy => by omega
      refine (ih (by omega) (by omega) (by omega) hnext).congr fun y => ?_
      have hnone := hmask.eq_zero_iff.1 (not_not.1 hz) y
      constructor
      · rintro ⟨hmax, hmin, hb⟩
        exact ⟨hmax, by omega, hb⟩
      · intro hy
        obtain ⟨hmax, hmin, hb⟩ := id hy
        have : y / 64 ≠ w := fun hyw => hnone hyw hy
        exact ⟨hmax, by omega, hb⟩

/-- The downward scan from a word that shows the set bits from `g` down. -/
theorem scanDownFrom_finds {s : State} {gmin n w g : Nat} {x : PortWord} (hg : g / 64 = w)
    (hw : gmin / 64 ≤ w) (hn : w < gmin / 64 + n)
    (hx : WordShows (fun y => y ≤ g ∧ s.linBit y = true) w x) :
    Finds (· ≥ ·) (fun y => gmin ≤ y ∧ y ≤ g ∧ s.linBit y = true) (s.scanDownFrom gmin n w x) := by
  induction n generalizing w g x with
  | zero => omega
  | succ n ih =>
    have hmask := hx.clearBelow hw
    unfold State.scanDownFrom
    dsimp only
    generalize (if w = gmin / 64 then clearBelow x (gmin % 64) else x) = z at hmask ⊢
    split_ifs with hz hlast
    · -- the word shows a bit sought
      exact hmask.highestBit_finds hz fun y ⟨_, hy, _⟩ => by omega
    · -- the last word shows none
      intro y hy
      obtain ⟨hmin, hmax, -⟩ := id hy
      exact hmask.eq_zero_iff.1 (not_not.1 hz) y (by omega) hy
    · -- the scan goes on with the next word
      have hnext := (linWord_shows s (w - 1)).restrict (q := (· ≤ 64 * w - 1)) fun y hy => by omega
      refine (ih (by omega) (by omega) (by omega) hnext).congr fun y => ?_
      have hnone := hmask.eq_zero_iff.1 (not_not.1 hz) y
      constructor
      · rintro ⟨hmin, hmax, hb⟩
        exact ⟨hmin, by omega, hb⟩
      · intro hy
        obtain ⟨hmin, hmax, hb⟩ := id hy
        have : y / 64 ≠ w := fun hyw => hnone hyw hy
        exact ⟨hmin, by omega, hb⟩

theorem scanUp_finds (s : State) {g gmax : Nat} (h : g ≤ gmax) :
    Finds (· ≤ ·) (fun y => g ≤ y ∧ y ≤ gmax ∧ s.linBit y = true) (s.scanUp g gmax) := by
  have hfirst := (linWord_shows s (g / 64)).clearBelow (le_refl (g / 64))
  rw [if_pos rfl] at hfirst
  rw [State.scanUp, if_neg (not_lt.2 h)]
  exact (scanUpFrom_finds rfl (Nat.div_le_div_right h) (by omega) hfirst).congr fun _ => and_left_comm

theorem scanDown_finds (s : State) {g gmin : Nat} (h : gmin ≤ g) :
    Finds (· ≥ ·) (fun y => gmin ≤ y ∧ y ≤ g ∧ s.linBit y = true) (s.scanDown g gmin) := by
  have hfirst := (linWord_shows s (g / 64)).clearAbove (le_refl (g / 64))
  rw [if_pos rfl] at hfirst
  rw [State.scanDown, if_neg (not_lt.2 h)]
  exact scanDownFrom_finds rfl (Nat.div_le_div_right h) (by omega) hfirst

/-- The slots of the positions a scan answers: the first set bit of an interval of covered slots. -/
theorem Finds.slots {s : State} {lo hi : Int} {r : Nat → Nat → Prop} {r' : Int → Int → Prop}
    {o : Option Nat}
    (h : Finds r
      (fun g => linIndex s.cfg lo ≤ g ∧ g ≤ linIndex s.cfg hi ∧ s.linBit g = true) o)
    (hg : Geometry s.cfg) (hlo : Covered s.cfg lo) (hhi : Covered s.cfg hi)
    (hr : ∀ g g', r g g' → r' (slotOfLin s.cfg g) (slotOfLin s.cfg g')) :
    Finds r' (fun k => lo ≤ k ∧ k ≤ hi ∧ s.bitRead k = true) (o.map (slotOfLin s.cfg)) := by
  have hcovered : ∀ k, lo ≤ k → k ≤ hi → Covered s.cfg k := fun k h1 h2 =>
    ⟨hlo.1.trans h1, h2.trans_lt hhi.2⟩
  have hcastlo := linIndex_cast hlo
  have hcasthi := linIndex_cast hhi
  refine h.map hr ?_ ?_
  · rintro g ⟨hglo, hghi, hb⟩
    have hslot : lo ≤ slotOfLin s.cfg g ∧ slotOfLin s.cfg g ≤ hi := by unfold slotOfLin; omega
    have hback : linIndex s.cfg (slotOfLin s.cfg g) = g := by unfold linIndex slotOfLin; omega
    refine ⟨hslot.1, hslot.2, ?_⟩
    rw [bitRead_eq_linBit hg (hcovered _ hslot.1 hslot.2), hback]
    exact hb
  · rintro k ⟨hklo, hkhi, hb⟩
    have hk := hcovered k hklo hkhi
    have hcast := linIndex_cast hk
    refine ⟨linIndex s.cfg k, ⟨by omega, by omega, ?_⟩, by unfold slotOfLin; omega⟩
    rwa [← bitRead_eq_linBit hg hk]

theorem slotOfLin_le {c : Config} {g g' : Nat} (h : g ≤ g') : slotOfLin c g ≤ slotOfLin c g' := by
  unfold slotOfLin
  omega

theorem linIndex_le {c : Config} {k k' : Int} (h : k ≤ k') : linIndex c k ≤ linIndex c k' := by
  unfold linIndex
  omega

/-- The scan answers the nearest candidate. -/
theorem scan_finds {s : State} (hg : Geometry s.cfg) (ht : 1 ≤ s.tspace.toNat) {k0 : Int}
    (hmin : s.kmin ≤ k0) (hmax : k0 ≤ s.kmax) (dir : Direction) (incl : Bool) :
    Finds (nearer dir) (s.candidate dir incl k0) (s.scan dir incl k0) := by
  have hcovered : ∀ {k}, s.kmin ≤ k → k ≤ s.kmax → Covered s.cfg k := domain_covered hg ht
  have hdomain := hmin.trans hmax
  unfold State.scan
  dsimp only
  cases dir with
  | up =>
    have hstart := le_searchStart_up incl k0
    refine Finds.congr (fun _ => (candidate_up_iff hmin).symm) ?_
    split_ifs with hout
    · rintro k ⟨hfrom, hto, -⟩
      omega
    · exact (scanUp_finds s (linIndex_le (by omega))).slots hg (hcovered (by omega) (by omega))
        (hcovered hdomain le_rfl) fun _ _ => slotOfLin_le
  | down =>
    have hstart := searchStart_down_le incl k0
    refine Finds.congr (fun _ => (candidate_down_iff hmax).symm) ?_
    split_ifs with hout
    · rintro k ⟨hfrom, hto, -⟩
      omega
    · exact (scanDown_finds s (linIndex_le (by omega))).slots hg (hcovered le_rfl hdomain)
        (hcovered (by omega) (by omega)) fun _ _ => slotOfLin_le

/-- Settles O40: the scan and the search both answer the nearest candidate, and there is one nearest. -/
theorem wordScanComputesTheSearch : Obligations.WordScanComputesTheSearch :=
  fun _ dir incl _ hg ht hmin hmax =>
    (scan_finds hg ht hmin hmax dir incl).unique nearer_antisymm (search_finds hmin hmax dir incl)

end Sys2Proof.Machine

/-! ## Commands and steps (44_system.md R250, R253, R255) -/

namespace Sys2Proof.Machine

/-- Settles O9: a command retires or raises, and both answer a next state. -/
theorem everyCommandAnswers : Obligations.EveryCommandAnswers :=
  fun i s => (exec_retiresOrRaises i s).imp fun _ => And.left

/-- `NOP` retires the state it finds (44_system.md R250). -/
theorem exec_nop (s : State) : exec .nop s = .next s.retire := rfl

/-- Settles O42: the word by evaluation, the effect by `exec_nop`. -/
theorem nopOnlyAdvancesPc : Obligations.NopOnlyAdvancesPc :=
  ⟨rfl, fun s => ⟨s.retire, exec_nop s, rfl⟩⟩

/-- What `exec_retiresOrRaises` says of a command holds of a command word: a legal word is its command's
word (30_encoding.md R100), and an illegal one raises (R94). -/
theorem runCommand_retiresOrRaises (c : CommandWord) (s : State) :
    RetiresOrRaises c s (runCommand c s) := by
  cases hd : decode c with
  | ok i =>
    obtain ⟨hword, -⟩ := legalWordIsItsCommandsWord c i hd
    rw [runCommand_of_decode hd, ← hword]
    exact exec_retiresOrRaises i s
  | error why =>
    rw [runCommand, hd]
    exact retiresOrRaises_trap ..

/-! ### Who changes the configuration and the spacing (R253; 10_state.md R32) -/

/-- No command word changes the configuration or `TSPACE`. -/
theorem runCommand_keeps_tspace {c : CommandWord} {s t : State} (h : runCommand c s = .next t) :
    t.cfg = s.cfg ∧ t.tspace = s.tspace := by
  obtain ⟨u, hu, hend⟩ := runCommand_retiresOrRaises c s
  obtain rfl := Host.Outcome.next.inj (hu.symm.trans h)
  rcases hend with ⟨-, -, -, htspace, hcfg, -⟩ | ⟨e, rfl⟩
  · exact ⟨hcfg, htspace⟩
  · exact ⟨rfl, rfl⟩

theorem eq_five_of_controlTarget_tspace : ∀ n < 8, controlTarget n = .tspace → n = 5 := by decide

/-- An aligned offset that names `TSPACE` is 0x0028 (20_memory.md R63). -/
theorem eq_of_portTarget_tspace {c : Config} {a : Nat} (ha : a % 8 = 0)
    (h : portTarget c a = some .tspace) : a = 0x0028 := by
  unfold portTarget at h
  split_ifs at h
  · have hfive := eq_five_of_controlTarget_tspace (a / 8) (by omega) (Option.some.inj h)
    omega
  all_goals nomatch Option.some.inj h

/-- An accepted port write keeps the configuration, and keeps `TSPACE` unless it names it. -/
theorem portWrite_keeps_tspace {s t : State} {v : PortWord} {x : PortTarget}
    (h : portWrite s v x = .accepted t) : t.cfg = s.cfg ∧ (t.tspace = s.tspace ∨ x = .tspace) := by
  cases x with
  | cmd =>
    unfold portWrite at h
    split_ifs at h
  | flags | cause | ecmd | pc | baddr | tick | bitmapWord =>
    obtain rfl := PortEffect.accepted.inj h
    exact ⟨rfl, .inl rfl⟩
  | tspace =>
    obtain rfl := PortEffect.accepted.inj h
    exact ⟨hostWriteTspace_cfg s v, .inr rfl⟩
  | trapack =>
    obtain rfl := PortEffect.accepted.inj h
    exact ⟨acknowledge_cfg s, .inl (acknowledge_tspace s)⟩
  | limb f r j =>
    obtain rfl := PortEffect.accepted.inj h
    exact ⟨hostWriteLimb_cfg s f r j v, .inl (hostWriteLimb_tspace s f r j v)⟩

/-- An accepted host event keeps the configuration, and keeps `TSPACE` unless it is a write of it or the
reset. -/
theorem hostEffect_keeps_tspace {s t : State} {e : HostEvent} (h : hostEffect s e = .accepted t) :
    t.cfg = s.cfg ∧ (t.tspace = s.tspace ∨ (∃ v, e = .write 0x0028 8 v) ∨ e = .reset) := by
  cases e with
  | read a bytes =>
    simp only [hostEffect] at h
    split at h
    · nomatch h
    · obtain rfl := PortEffect.accepted.inj h
      exact ⟨rfl, .inl rfl⟩
  | write a bytes v =>
    simp only [hostEffect] at h
    split at h
    · nomatch h
    · next x hx =>
      obtain ⟨rfl, ha, htarget⟩ := accessTarget_eq_some hx
      obtain ⟨hcfg, hkept | rfl⟩ := portWrite_keeps_tspace h
      · exact ⟨hcfg, .inl hkept⟩
      · obtain rfl := eq_of_portTarget_tspace ha htarget
        exact ⟨hcfg, .inr (.inl ⟨v, rfl⟩)⟩
  | reset =>
    obtain rfl := PortEffect.accepted.inj h
    exact ⟨rfl, .inr (.inr rfl)⟩

/-- Settles O49: a step is a command, which keeps both, or an accepted host event of the state that took
it. -/
theorem onlyTheHostSetsTheSpacing : Obligations.OnlyTheHostSetsTheSpacing := by
  intro s t hstep
  obtain ⟨e, rest, hpending, ⟨c, -, hrun⟩ | haccepted⟩ := step_cases hstep
  · obtain ⟨hcfg, htspace⟩ := runCommand_keeps_tspace hrun
    exact ⟨hcfg, .inl htspace⟩
  · obtain ⟨hcfg, hkept | ⟨v, rfl⟩ | rfl⟩ := hostEffect_keeps_tspace haccepted
    · exact ⟨hcfg, .inl hkept⟩
    · exact ⟨hcfg, .inr ⟨rest, .inl ⟨v, hpending⟩⟩⟩
    · exact ⟨hcfg, .inr ⟨rest, .inr hpending⟩⟩

end Sys2Proof.Machine

/-! ## Runs (44_system.md R252, R254) -/

namespace Sys2Proof.Machine

/-! ### A halted block holds a command word off (60_exceptions.md R271) -/

/-- A presented command word has a zero upper half. -/
theorem extractLsb'_upper_setWidth (c : CommandWord) : (c.setWidth 64).extractLsb' 32 32 = 0#32 := by
  apply BitVec.eq_of_toNat_eq
  rw [BitVec.extractLsb'_toNat, BitVec.toNat_setWidth, Nat.shiftRight_eq_div_pow]
  have hlt := c.isLt
  simp only [BitVec.toNat_ofNat]
  omega

/-- The port accepts no command word while the block is halted (20_memory.md R64). -/
theorem hostEffect_presentCommand_halted {s : State} (hs : s.cause ≠ 0) (c : CommandWord) :
    hostEffect s (presentCommand c) = .heldOff := by
  show portWrite s (c.setWidth 64) .cmd = .heldOff
  rw [portWrite, if_neg (not_not_intro (extractLsb'_upper_setWidth c))]
  exact if_pos hs

theorem step_heldOff {s : State} {c : CommandWord} {rest : List HostEvent} (hs : s.cause ≠ 0)
    (h : s.pending = presentCommand c :: rest) : step s = .fault .heldOff := by
  unfold step
  rw [h]
  dsimp only
  rw [hostEffect_presentCommand_halted (s := s.took rest) hs]

/-- A halted block whose host has only command words to present stays as it is. -/
theorem settle_step_halted {s : State} {words : List CommandWord} (hs : s.halted)
    (hp : s.presents words) : s.settle (step s) = s := by
  cases words with
  | nil => rw [step_of_pending_nil hp, settle_fault]
  | cons c words => rw [step_heldOff hs hp, settle_fault]

/-! ### A run of a fixed list, word by word (R254) -/

/-- The state that has taken word `k` of `prog` off the list, with the words after it to come. -/
def State.tookWord (s : State) (prog : List CommandWord) (k : Nat) : State :=
  s.took ((prog.drop (k + 1)).map presentCommand)

/-- In `s` a run of `prog` has retired the words before word `k` and awaits that word. -/
structure AtWord (prog : List CommandWord) (k : Nat) (s : State) : Prop where
  cause : s.cause = 0
  pc : s.pc.toNat = k
  presents : s.presents (prog.drop k)

theorem startsRun_iff_atWord_zero {prog : List CommandWord} {s : State} :
    s.startsRun prog ↔ AtWord prog 0 s :=
  ⟨fun ⟨hcause, hpc, hpresents⟩ => ⟨hcause, congrArg BitVec.toNat hpc, hpresents⟩,
    fun ⟨hcause, hpc, hpresents⟩ => ⟨hcause, BitVec.eq_of_toNat_eq hpc, hpresents⟩⟩

namespace AtWord

variable {prog : List CommandWord} {k : Nat} {s : State}

theorem endedNormally (h : AtWord prog prog.length s) : s.endedNormally prog.length := by
  obtain ⟨hcause, hpc, hpresents⟩ := h
  exact ⟨by simpa [State.presents] using hpresents, hcause, hpc⟩

theorem pending_eq (h : AtWord prog k s) (hk : k < prog.length) :
    s.pending = presentCommand prog[k] :: (prog.drop (k + 1)).map presentCommand := by
  rw [h.presents, List.drop_eq_getElem_cons hk, List.map_cons]

/-- The step on word `k` is the run of that word. -/
theorem step_eq (h : AtWord prog k s) (hk : k < prog.length) :
    step s = runCommand prog[k] (s.tookWord prog k) :=
  step_presentCommand h.cause (h.pending_eq hk)

/-- Word `k` retires, and the run awaits the next word, or it raises. -/
theorem step_retiresOrRaises (h : AtWord prog k s) (hk : k < prog.length)
    (hlen : prog.length < 2 ^ 64) :
    ∃ t, step s = .next t ∧ (AtWord prog (k + 1) t ∨
      ∃ e, RaisesOnly e prog[k] (s.tookWord prog k) t) := by
  obtain ⟨t, ht, hend⟩ := runCommand_retiresOrRaises prog[k] (s.tookWord prog k)
  refine ⟨t, (h.step_eq hk).trans ht, hend.imp_left ?_⟩
  rintro ⟨hpc, hcause, -, -, -, hpending, -⟩
  have hnext : (s.pc + 1).toNat = k + 1 := by
    rw [BitVec.toNat_add, h.pc]
    exact Nat.mod_eq_of_lt (Nat.lt_of_le_of_lt hk hlen)
  exact ⟨hcause.trans h.cause, (congrArg BitVec.toNat hpc).trans hnext, hpending⟩

end AtWord

theorem settle_step_endedNormally {n : Nat} {t : State} (h : t.endedNormally n) :
    t.settle (step t) = t := by
  obtain ⟨hempty, -, -⟩ := h
  rw [step_of_pending_nil hempty, settle_fault]

theorem settle_step_endedHalted {prog : List CommandWord} {s t : State} (h : t.endedHalted s prog) :
    t.settle (step t) = t := by
  obtain ⟨hhalted, -, -, ht⟩ := h
  exact settle_step_halted hhalted (congrArg State.pending ht)

/-- The run ends halted at a word that raises. -/
theorem endedHalted_of_raises {prog : List CommandWord} {s t : State} {k : Nat} {e : Cause}
    (hu : AtWord prog k (runFor k s)) (hk : k < prog.length)
    (ht : RaisesOnly e prog[k] ((runFor k s).tookWord prog k) t) :
    t.endedHalted s prog := by
  have hpc : t.pc.toNat = k := by rw [ht]; exact hu.pc
  have hecmd : t.ecmd = prog[k] := by rw [ht]
  refine ⟨?_, ?_, ?_, ?_⟩
  · rw [ht]
    exact raise_halted _ e _
  · rw [hpc, hecmd, List.getElem?_eq_getElem hk]
  · rw [hpc]
    exact hu.cause
  · rw [hpc, ht]
    rfl

/-- After `n` steps a run awaits word `n`, or has all words behind it, or has ended halted. -/
theorem runFor_atWord_or_endedHalted {prog : List CommandWord} {s : State}
    (hlen : prog.length < 2 ^ 64) (hs : s.startsRun prog) (n : Nat) :
    AtWord prog (min n prog.length) (runFor n s) ∨ (runFor n s).endedHalted s prog := by
  induction n with
  | zero => exact .inl (by simpa using startsRun_iff_atWord_zero.1 hs)
  | succ n ih =>
    rw [runFor_succ]
    rcases ih with hat | hended
    · by_cases hn : n < prog.length
      · rw [min_eq_left hn.le] at hat
        rw [min_eq_left hn]
        obtain ⟨t, ht, hend⟩ := hat.step_retiresOrRaises hn hlen
        rw [ht, settle_next]
        exact hend.imp_right fun ⟨e, he⟩ => endedHalted_of_raises hat hn he
      · rw [min_eq_right (by omega)] at hat ⊢
        rw [settle_step_endedNormally hat.endedNormally]
        exact .inl hat
    · rw [settle_step_endedHalted hended]
      exact .inr hended

/-- Settles O51: after as many steps as words the run has ended one way or the other, and from either
end there is no step. -/
theorem runEndsNormallyOrHalted : Obligations.RunEndsNormallyOrHalted := by
  intro prog s hlen hs
  have hprogress := runFor_atWord_or_endedHalted hlen hs prog.length
  rw [min_self] at hprogress
  have hend := hprogress.imp_left AtWord.endedNormally
  refine ⟨hend, fun n => ?_⟩
  rw [runFor_add]
  exact runFor_stuck (hend.elim settle_step_endedNormally settle_step_endedHalted) n

/-! ### A host that does not look (R252) -/

theorem operandsAgree_observed (s : State) : OperandsAgree s s.observed :=
  ⟨rfl, rfl, rfl, rfl, rfl, rfl, rfl⟩

/-- The writes of a command do not reach the host's list. -/
theorem Writes.apply_observed (s : State) (x : Writes) :
    x.apply s.observed = (x.apply s).observed := by
  have hwide : ∀ f rd v, s.observed.writeWide f rd v = (s.writeWide f rd v).observed := fun f _ _ => by
    cases f <;> rfl
  cases x with
  | wide f rd v => exact hwide f rd v
  | wideCarry f rd v c => exact congrArg (State.setC · c) (hwide f rd v)
  | nothing | compare | tick | tickFound | found | slotBit | slotAddr => rfl

/-- A command word does to the block what it does whatever the host has yet to present. -/
theorem runCommand_observed {c : CommandWord} {s t : State} (h : runCommand c s = .next t) :
    runCommand c s.observed = .next t.observed := by
  rcases runCommand_cases h with ⟨i, hd, hi⟩ | ⟨why, hd, rfl⟩
  · rw [runCommand_of_decode hd]
    rcases exec_fixed i s with ⟨e, he⟩ | ⟨x, -, hx⟩
    · obtain rfl := (trap_next ..).1 ((he s (.refl s)).symm.trans hi)
      exact he s.observed (operandsAgree_observed s)
    · obtain rfl := (complete_next ..).1 ((hx s (.refl s)).symm.trans hi)
      rw [hx s.observed (operandsAgree_observed s), x.apply_observed]
      rfl
  · rw [runCommand, hd]
    rfl

/-- Settling keeps two states equal up to the host's list. -/
theorem observed_settle_congr {s s' : State} (h : s'.observed = s.observed) (r : StepResult) :
    (s'.settle r).observed = (s.settle r).observed := by
  cases r with
  | next t => rfl
  | fault | refused => exact h

/-- A step under a host depends on the observed state only (44_system.md R252). -/
theorem hostStep_congr (h : HostFunction) {s s' : State} (hs : s'.observed = s.observed) :
    hostStep h s' = hostStep h s :=
  show hostStep h s'.observed = hostStep h s.observed by rw [hs]

/-- The host of a fixed list presents `prog[PC]`. -/
theorem hostStep_listHost {prog : List CommandWord} {s : State} {c : CommandWord}
    (hc : prog[s.pc.toNat]? = some c) :
    hostStep (listHost prog) s = step { s with pending := [presentCommand c] } := by
  have hchoice : listHost prog s.observed = some (presentCommand c) := congrArg (Option.map _) hc
  rw [hostStep, hchoice]

/-- The host of a fixed list presents nothing once `PC` is past the list. -/
theorem hostStep_listHost_past {prog : List CommandWord} {s : State} (hpc : prog.length ≤ s.pc.toNat) :
    hostStep (listHost prog) s = .fault .awaitingHost := by
  have hchoice : listHost prog s.observed = none :=
    congrArg (Option.map presentCommand) (List.getElem?_eq_none hpc)
  rw [hostStep, hchoice]

/-- Both steps run the awaited word, and differ in the list they leave. -/
theorem AtWord.hostStep_eq {prog : List CommandWord} {k : Nat} {s t : State} (h : AtWord prog k s)
    (hk : k < prog.length) (ht : step s = .next t) :
    hostStep (listHost prog) s = .next t.observed := by
  have hc : prog[s.pc.toNat]? = some prog[k] := by rw [h.pc, List.getElem?_eq_getElem hk]
  calc hostStep (listHost prog) s = step { s with pending := [presentCommand prog[k]] } :=
        hostStep_listHost hc
    _ = runCommand prog[k] (s.tookWord prog k).observed := step_presentCommand h.cause rfl
    _ = .next t.observed := runCommand_observed ((h.step_eq hk).symm.trans ht)

/-- In a halted run the host still presents the faulting word, and it is held off. -/
theorem hostStep_endedHalted {prog : List CommandWord} {s t : State} (h : t.endedHalted s prog) :
    hostStep (listHost prog) t = .fault .heldOff := by
  obtain ⟨hhalted, hword, -, -⟩ := h
  rw [hostStep_listHost hword]
  exact step_heldOff hhalted rfl

/-- Settles O52: at a word both steps run it; past the list, and in a halted block, neither moves. -/
theorem fixedListIsAHostThatDoesNotLook : Obligations.FixedListIsAHostThatDoesNotLook := by
  intro prog s n hlen hs
  induction n with
  | zero => rfl
  | succ n ih =>
    rw [hostRunFor_succ, runFor_succ, hostStep_congr _ ih, observed_settle_congr ih]
    rcases runFor_atWord_or_endedHalted hlen hs n with hat | hended
    · by_cases hn : n < prog.length
      · rw [min_eq_left hn.le] at hat
        obtain ⟨t, ht, -⟩ := hat.step_retiresOrRaises hn hlen
        rw [hat.hostStep_eq hn ht, ht]
        rfl
      · rw [min_eq_right (by omega)] at hat
        obtain ⟨hempty, -, hpc⟩ := hat.endedNormally
        rw [hostStep_listHost_past hpc.ge, step_of_pending_nil hempty]
    · rw [hostStep_endedHalted hended, settle_step_endedHalted hended, settle_fault]

end Sys2Proof.Machine

/-! ## Faults, the halted block and the acknowledge (60_exceptions.md R262, R270 to R273) -/

namespace Sys2Proof.Machine

/-! ### A halted block (R271) -/

/-- The port takes a command word from an idle block's host only (20_memory.md R64). -/
theorem portWrite_eq_command {s : State} {v : PortWord} {x : PortTarget} {c : CommandWord}
    (h : portWrite s v x = .command c) : s.cause = 0 := by
  cases x with
  | cmd =>
    unfold portWrite at h
    split_ifs at h with hupper hhalted
    exact not_not.1 hhalted
  | flags | cause | ecmd | pc | tspace | baddr | trapack | tick | limb | bitmapWord => nomatch h

/-- Of the host's events only a write can be a command, and the block is idle then. -/
theorem hostEffect_eq_command {s : State} {e : HostEvent} {c : CommandWord}
    (h : hostEffect s e = .command c) : s.cause = 0 := by
  cases e with
  | read a bytes =>
    simp only [hostEffect] at h
    split at h <;> nomatch h
  | write a bytes v =>
    simp only [hostEffect] at h
    split at h
    · nomatch h
    · exact portWrite_eq_command h
  | reset => nomatch h

/-- A write to `CMD` is rejected, held off or a command (20_memory.md R64): it never leaves a state of
its own. -/
theorem hostEffect_write_cmd_ne_accepted (s t : State) (v : PortWord) :
    hostEffect s (.write 0 8 v) ≠ .accepted t := by
  show portWrite s v .cmd ≠ .accepted t
  unfold portWrite
  split_ifs <;> nofun

/-- Settles O7: a presented word is held off; a step from a halted state is no command, since a command
finds the block idle, and its accepted access is no write to `CMD`. -/
theorem haltedBlockExecutesNoCommand : Obligations.HaltedBlockExecutesNoCommand := by
  refine ⟨fun s c rest hs h => step_heldOff hs h, fun s t hs hstep => ?_⟩
  obtain ⟨e, rest, hpending, ⟨c, hcommand, -⟩ | haccepted⟩ := step_cases hstep
  · exact absurd (hostEffect_eq_command hcommand) hs
  · refine ⟨e, rest, hpending, ?_, haccepted⟩
    rintro v rfl
    exact hostEffect_write_cmd_ne_accepted _ _ _ haccepted

/-! ### Raising (R262, R270) -/

/-- Settles O44: the word retires or raises; had it retired, `CAUSE` would still be 0. -/
theorem faultRecordsThePresentedWord : Obligations.FaultRecordsThePresentedWord := by
  intro s t c rest hs h hstep hcause
  rw [step_presentCommand hs h] at hstep
  obtain ⟨u, hu, hend⟩ := runCommand_retiresOrRaises c (s.took rest)
  obtain rfl := Host.Outcome.next.inj (hu.symm.trans hstep)
  rcases hend with ⟨-, hkept, -⟩ | ⟨e, rfl⟩
  · exact absurd (hkept.trans hs) hcause
  · exact ⟨e.code_range.2, rfl⟩

/-- No row stands for the all-zero word: each fixes some bit to 1 (30_encoding.md R96). -/
theorem opcodeTable_value_ne_zero : ∀ r ∈ opcodeTable, r.value ≠ 0#32 := by decide

/-- No row stands for the all-ones word: each fixes some bit to 0 (30_encoding.md R96). -/
theorem opcodeTable_mask_ne_value : ∀ r ∈ opcodeTable, r.mask ≠ r.value := by decide

/-- Settles O5: the step runs the presented word, which `tableDecidesDecoding` says raises
`IllegalCommand`; the all-zero word matches the value 0 only, the all-ones word the row's mask only. -/
theorem illegalWordRaises : Obligations.IllegalWordRaises := by
  refine ⟨fun s c rest hs h hnone => ?_, fun r hr hmatch => ?_, fun r hr hmatch => ?_⟩
  · obtain ⟨-, -, hillegal⟩ := tableDecidesDecoding c
    obtain ⟨t, hrun, hraises⟩ := hillegal hnone (s.took rest)
    exact ⟨t, (step_presentCommand hs h).trans hrun, hraises, congrArg State.cause hraises⟩
  · rw [BitVec.zero_and] at hmatch
    exact opcodeTable_value_ne_zero r hr hmatch.symm
  · have hones : 0xFFFFFFFF#32 &&& r.mask = r.mask := BitVec.allOnes_and
    exact opcodeTable_mask_ne_value r hr (hones.symm.trans hmatch)

/-! ### Acknowledging (R273) -/

theorem acknowledge_of_idle {s : State} (hs : s.cause = 0) : s.acknowledge = s := if_pos hs

theorem acknowledge_of_halted {s : State} (hs : s.cause ≠ 0) :
    s.acknowledge = { s with cause := 0, pc := s.pc + 1 } := if_neg hs

/-- A step on an acknowledge is the acknowledge, whatever the value written. -/
theorem step_presentAcknowledge {s : State} {v : PortWord} {rest : List HostEvent}
    (h : s.pending = presentAcknowledge v :: rest) : step s = .next (s.took rest).acknowledge :=
  step_write (x := .trapack) h rfl rfl rfl

/-- Settles O45: the step acknowledges in the state that took the access, a fault pending or not. -/
theorem acknowledgeReturnsFromFault : Obligations.AcknowledgeReturnsFromFault :=
  fun s _ rest h =>
    ⟨fun hs => ⟨(s.took rest).acknowledge, step_presentAcknowledge h, acknowledge_of_halted hs⟩,
      fun hs => ⟨(s.took rest).acknowledge, step_presentAcknowledge h, acknowledge_of_idle hs⟩⟩

end Sys2Proof.Machine

/-! ## The reset (70_reset_and_hazards.md R300) -/

namespace Sys2Proof.Machine

/-- Memory that lists no byte reads as zero words. -/
@[simp] theorem readWord_nil (a : Nat) : Memory.readWord [] a = 0 := rfl

@[simp] theorem resetWith_readT (c : Config) (pending : List HostEvent) (r : TReg) :
    (State.resetWith c pending).readT r = 0 := by
  rw [State.readT, State.resetWith, Vector.get_replicate]
  exact BitVec.toInt_zero

@[simp] theorem resetWith_readWide (c : Config) (pending : List HostEvent) (f : WideFile) (r : Reg) :
    (State.resetWith c pending).readWide f r = 0 := by
  cases f with
  | d | q | o =>
    rw [State.readWide, State.resetWith, Vector.get_replicate]
    exact BitVec.toNat_zero

/-- No flag is set after reset. -/
@[simp] theorem resetWith_flags_toBits (c : Config) (pending : List HostEvent) :
    (State.resetWith c pending).flags.toBits = 0 :=
  BitVec.eq_of_toNat_eq (Flags.toBits_toNat ⟨false, false, false, false⟩)

/-- A step on the reset leaves the reset state, which keeps of the state before it only the
configuration and the rest of the host's list. -/
theorem step_reset {s : State} {rest : List HostEvent} (h : s.pending = .reset :: rest) :
    step s = .next (State.resetWith s.cfg rest) := by
  simp only [step, h]
  rfl

/-- Settles O46: the step leaves `State.resetWith`, whose registers and bitmap words read as 0 and whose
other fields are written out in its definition. -/
theorem resetLeavesTheResetValues : Obligations.ResetLeavesTheResetValues := by
  intro s rest h
  exact ⟨State.resetWith s.cfg rest, step_reset h, resetWith_readT _ _, resetWith_readWide _ _,
    rfl, resetWith_flags_toBits _ _, rfl, rfl, rfl, rfl, readWord_nil, rfl, rfl⟩

end Sys2Proof.Machine
